-- ==== Sys2Proof/Word.lean ====
section
/-! DEFINITION. The word types of the CHIP-8 CORE (spec 00_scope.md R7, R9, R10; 30_encoding.md R52). -/

namespace Sys2Proof

/-- A byte: a general register, a memory cell, a timer, the immediate NN (R7, R52). -/
abbrev Byte := BitVec 8

/-- A 16-bit word: pc, I, a stack entry, an instruction word (R7, R51). -/
abbrev Word := BitVec 16

/-- A 4-bit field: a register index X or Y, or the row count N (R52). -/
abbrev Nibble := BitVec 4

/-- The 12-bit address field NNN (R52). -/
abbrev Addr := BitVec 12

end Sys2Proof
end

