-- ==== Sys2Proof/Syntax.lean ====
section
/-! DEFINITION. The instructions: one constructor per row of the opcode map (spec 30_encoding.md R56).
Operands have the widths of the encoding's fields (R52), so a register index outside 0..15 cannot be written (R13). -/

namespace Sys2Proof

/-- The 34 instructions of the base CHIP-8 set (R3, R56), in the table's order. -/
inductive Instr where
  /-- `00E0` CLS (R102). -/
  | cls
  /-- `00EE` RET (R70). -/
  | ret
  /-- `1NNN` JP nnn (R71). -/
  | jp (nnn : Addr)
  /-- `2NNN` CALL nnn (R72). -/
  | call (nnn : Addr)
  /-- `3XNN` SE Vx, nn (R74). -/
  | seImm (x : Nibble) (nn : Byte)
  /-- `4XNN` SNE Vx, nn (R75). -/
  | sneImm (x : Nibble) (nn : Byte)
  /-- `5XY0` SE Vx, Vy (R76). -/
  | seReg (x y : Nibble)
  /-- `6XNN` LD Vx, nn (R81). -/
  | ldImm (x : Nibble) (nn : Byte)
  /-- `7XNN` ADD Vx, nn (R82). -/
  | addImm (x : Nibble) (nn : Byte)
  /-- `8XY0` LD Vx, Vy (R83). -/
  | ldReg (x y : Nibble)
  /-- `8XY1` OR Vx, Vy (R84). -/
  | orReg (x y : Nibble)
  /-- `8XY2` AND Vx, Vy (R85). -/
  | andReg (x y : Nibble)
  /-- `8XY3` XOR Vx, Vy (R86). -/
  | xorReg (x y : Nibble)
  /-- `8XY4` ADD Vx, Vy (R87). -/
  | addReg (x y : Nibble)
  /-- `8XY5` SUB Vx, Vy (R88). -/
  | subReg (x y : Nibble)
  /-- `8XY6` SHR Vx, Vy (R89). -/
  | shrReg (x y : Nibble)
  /-- `8XY7` SUBN Vx, Vy (R90). -/
  | subnReg (x y : Nibble)
  /-- `8XYE` SHL Vx, Vy (R91). -/
  | shlReg (x y : Nibble)
  /-- `9XY0` SNE Vx, Vy (R77). -/
  | sneReg (x y : Nibble)
  /-- `ANNN` LD I, nnn (R94). -/
  | ldI (nnn : Addr)
  /-- `BNNN` JP V0, nnn (R73). -/
  | jpV0 (nnn : Addr)
  /-- `CXNN` RND Vx, nn (R92). -/
  | rnd (x : Nibble) (nn : Byte)
  /-- `DXYN` DRW Vx, Vy, n (R103). -/
  | drw (x y n : Nibble)
  /-- `EX9E` SKP Vx (R106). -/
  | skp (x : Nibble)
  /-- `EXA1` SKNP Vx (R107). -/
  | sknp (x : Nibble)
  /-- `FX07` LD Vx, DT (R109). -/
  | ldVxDt (x : Nibble)
  /-- `FX0A` LD Vx, K (R108). -/
  | ldVxKey (x : Nibble)
  /-- `FX15` LD DT, Vx (R110). -/
  | ldDtVx (x : Nibble)
  /-- `FX18` LD ST, Vx (R111). -/
  | ldStVx (x : Nibble)
  /-- `FX1E` ADD I, Vx (R95). -/
  | addI (x : Nibble)
  /-- `FX29` LD F, Vx (R96). -/
  | ldFont (x : Nibble)
  /-- `FX33` LD B, Vx (R97). -/
  | ldBcd (x : Nibble)
  /-- `FX55` LD [I], Vx (R98). -/
  | storeRegs (x : Nibble)
  /-- `FX65` LD Vx, [I] (R99). -/
  | loadRegs (x : Nibble)
  deriving DecidableEq, Repr

end Sys2Proof
end

