-- ==== Sys2Proof/WellFormed.lean ====
section
/-! DEFINITION. What is well formed before it reaches the machine: an instruction word (spec 30_encoding.md R57) and a
program image (70_reset_and_hazards.md R131). A term of `Instr` needs no check: its operand types have the widths of
the encoding's fields, so every term is one of the words of the opcode map (R13, R52). The checks are written with
division and remainder, apart from the masks of the decoder, so that the two can be compared. -/

namespace Sys2Proof

/-- Family 0 holds 0x00E0 and 0x00EE only (R57). -/
def wfFamily0 (w : Word) : Bool := w.toNat == 0x00E0 || w.toNat == 0x00EE

/-- Families 5 and 9 need n = 0 (R54, R57). -/
def wfLowNibbleZero (w : Word) : Bool := w.toNat % 16 == 0

/-- Family 8 has the secondary opcodes 0..7 and E (R54, R57). -/
def wfFamily8 (w : Word) : Bool := decide (w.toNat % 16 < 8) || w.toNat % 16 == 0xE

/-- Family E has the secondary opcodes 9E and A1 (R54, R57). -/
def wfFamilyE (w : Word) : Bool := [0x9E, 0xA1].contains (w.toNat % 256)

/-- Family F has the nine secondary opcodes of R54 (R57). -/
def wfFamilyF (w : Word) : Bool :=
  [0x07, 0x0A, 0x15, 0x18, 0x1E, 0x29, 0x33, 0x55, 0x65].contains (w.toNat % 256)

/-- A word is well formed when it is outside every space of illegal words of R57: families 1, 2, 3, 4, 6, 7, A, B, C
and D have no illegal word, and the six others have one check each. -/
def wordWf (w : Word) : Bool :=
  match w.toNat / 4096 with
  | 0x0 => wfFamily0 w
  | 0x5 => wfLowNibbleZero w
  | 0x8 => wfFamily8 w
  | 0x9 => wfLowNibbleZero w
  | 0xE => wfFamilyE w
  | 0xF => wfFamilyF w
  | _ => true

/-- MAX_PROGRAM = 4096 - 512 bytes (R7). -/
def maxProgram : Nat := 3584

/-- A program image fits below address 4096 (R131). -/
def imageWf (image : List Byte) : Bool := decide (image.length ≤ maxProgram)

end Sys2Proof
end

