-- ==== Sys2Proof/Decode.lean ====
section
/-! DEFINITION. The decoder and the encoder (spec 30_encoding.md). The decoder is the mask and match table of R56, as
R63 reads it; the encoder writes the bit diagrams of the opcode map. -/

namespace Sys2Proof

/-- Field x, w[11:8] (R52). -/
def fieldX (w : Word) : Nibble := w.extractLsb' 8 4
/-- Field y, w[7:4] (R52). -/
def fieldY (w : Word) : Nibble := w.extractLsb' 4 4
/-- Field n, w[3:0] (R52). -/
def fieldN (w : Word) : Nibble := w.extractLsb' 0 4
/-- Field nn, w[7:0] (R52). -/
def fieldNN (w : Word) : Byte := w.extractLsb' 0 8
/-- Field nnn, w[11:0] (R52). -/
def fieldNNN (w : Word) : Addr := w.extractLsb' 0 12

/-- A row of the opcode map of R56: the pattern's name, its mask and match, and the instruction its fields make. -/
structure OpRow where
  mnemonic : String
  mask : Word
  value : Word
  build : Word → Instr

/-- "a word w selects the row with `(w & mask) == match`" (R56). -/
def OpRow.selects (r : OpRow) (w : Word) : Bool := (w &&& r.mask) == r.value

/-- The complete opcode map, 34 rows (R56). -/
def opcodeTable : List OpRow :=
  [ ⟨"00E0", 0xFFFF, 0x00E0, fun _ => .cls⟩,
    ⟨"00EE", 0xFFFF, 0x00EE, fun _ => .ret⟩,
    ⟨"1NNN", 0xF000, 0x1000, fun w => .jp (fieldNNN w)⟩,
    ⟨"2NNN", 0xF000, 0x2000, fun w => .call (fieldNNN w)⟩,
    ⟨"3XNN", 0xF000, 0x3000, fun w => .seImm (fieldX w) (fieldNN w)⟩,
    ⟨"4XNN", 0xF000, 0x4000, fun w => .sneImm (fieldX w) (fieldNN w)⟩,
    ⟨"5XY0", 0xF00F, 0x5000, fun w => .seReg (fieldX w) (fieldY w)⟩,
    ⟨"6XNN", 0xF000, 0x6000, fun w => .ldImm (fieldX w) (fieldNN w)⟩,
    ⟨"7XNN", 0xF000, 0x7000, fun w => .addImm (fieldX w) (fieldNN w)⟩ ] ++
  [ ⟨"8XY0", 0xF00F, 0x8000, fun w => .ldReg (fieldX w) (fieldY w)⟩,
    ⟨"8XY1", 0xF00F, 0x8001, fun w => .orReg (fieldX w) (fieldY w)⟩,
    ⟨"8XY2", 0xF00F, 0x8002, fun w => .andReg (fieldX w) (fieldY w)⟩,
    ⟨"8XY3", 0xF00F, 0x8003, fun w => .xorReg (fieldX w) (fieldY w)⟩,
    ⟨"8XY4", 0xF00F, 0x8004, fun w => .addReg (fieldX w) (fieldY w)⟩,
    ⟨"8XY5", 0xF00F, 0x8005, fun w => .subReg (fieldX w) (fieldY w)⟩,
    ⟨"8XY6", 0xF00F, 0x8006, fun w => .shrReg (fieldX w) (fieldY w)⟩,
    ⟨"8XY7", 0xF00F, 0x8007, fun w => .subnReg (fieldX w) (fieldY w)⟩,
    ⟨"8XYE", 0xF00F, 0x800E, fun w => .shlReg (fieldX w) (fieldY w)⟩ ] ++
  [ ⟨"9XY0", 0xF00F, 0x9000, fun w => .sneReg (fieldX w) (fieldY w)⟩,
    ⟨"ANNN", 0xF000, 0xA000, fun w => .ldI (fieldNNN w)⟩,
    ⟨"BNNN", 0xF000, 0xB000, fun w => .jpV0 (fieldNNN w)⟩,
    ⟨"CXNN", 0xF000, 0xC000, fun w => .rnd (fieldX w) (fieldNN w)⟩,
    ⟨"DXYN", 0xF000, 0xD000, fun w => .drw (fieldX w) (fieldY w) (fieldN w)⟩,
    ⟨"EX9E", 0xF0FF, 0xE09E, fun w => .skp (fieldX w)⟩,
    ⟨"EXA1", 0xF0FF, 0xE0A1, fun w => .sknp (fieldX w)⟩ ] ++
  [ ⟨"FX07", 0xF0FF, 0xF007, fun w => .ldVxDt (fieldX w)⟩,
    ⟨"FX0A", 0xF0FF, 0xF00A, fun w => .ldVxKey (fieldX w)⟩,
    ⟨"FX15", 0xF0FF, 0xF015, fun w => .ldDtVx (fieldX w)⟩,
    ⟨"FX18", 0xF0FF, 0xF018, fun w => .ldStVx (fieldX w)⟩,
    ⟨"FX1E", 0xF0FF, 0xF01E, fun w => .addI (fieldX w)⟩,
    ⟨"FX29", 0xF0FF, 0xF029, fun w => .ldFont (fieldX w)⟩,
    ⟨"FX33", 0xF0FF, 0xF033, fun w => .ldBcd (fieldX w)⟩,
    ⟨"FX55", 0xF0FF, 0xF055, fun w => .storeRegs (fieldX w)⟩,
    ⟨"FX65", 0xF0FF, 0xF065, fun w => .loadRegs (fieldX w)⟩ ]

/-- Decode one instruction word: the row it selects, with its fields (R63); `none` where no row does (R57). -/
def decodeWord (w : Word) : Option Instr :=
  (opcodeTable.find? (fun r => r.selects w)).map (fun r => r.build w)

/-- Two bytes as an instruction word, the first one high (R41, R51). -/
def joinBytes (hi lo : Byte) : Word := hi ++ lo

/-- The two bytes of a word as the hardware stores them, the high byte at the lower address (R41). -/
def wordBytes (w : Word) : List Byte := [w.extractLsb' 8 8, w.extractLsb' 0 8]

/-- Why a byte sequence is rejected by the decoder. -/
inductive DecodeReject where
  /-- Fewer than the 2 bytes every instruction has (R51); `got` says how many there were. -/
  | truncated (got : Nat)
  /-- The word matches no row of the opcode map (R57). -/
  | unknownOpcode (w : Word)
  deriving DecidableEq, Repr

/-- Decode the instruction at the head of a byte sequence; a decoder always consumes exactly 2 bytes (R51). -/
def decode : List Byte → Except DecodeReject (Instr × List Byte)
  | hi :: lo :: rest =>
    match decodeWord (joinBytes hi lo) with
    | some i => .ok (i, rest)
    | none => .error (.unknownOpcode (joinBytes hi lo))
  | short => .error (.truncated short.length)

/-- The host's view of the decoder: the instruction of an opcode-table word (its bits numbered as the table does). -/
def decodeTableWord (nbits w : Nat) : Option Instr :=
  match decode (wordBytes (BitVec.ofNat 16 (w % 2 ^ nbits))) with
  | .ok (i, _) => some i
  | .error _ => none

/-- The word of an instruction, written as the bit diagrams of the opcode map (R52, R56). -/
def encode : Instr → Word
  | .cls => 0x00E0#16
  | .ret => 0x00EE#16
  | .jp nnn => 0x1#4 ++ nnn
  | .call nnn => 0x2#4 ++ nnn
  | .seImm x nn => 0x3#4 ++ x ++ nn
  | .sneImm x nn => 0x4#4 ++ x ++ nn
  | .seReg x y => 0x5#4 ++ x ++ y ++ 0x0#4
  | .ldImm x nn => 0x6#4 ++ x ++ nn
  | .addImm x nn => 0x7#4 ++ x ++ nn
  | .ldReg x y => 0x8#4 ++ x ++ y ++ 0x0#4
  | .orReg x y => 0x8#4 ++ x ++ y ++ 0x1#4
  | .andReg x y => 0x8#4 ++ x ++ y ++ 0x2#4
  | .xorReg x y => 0x8#4 ++ x ++ y ++ 0x3#4
  | .addReg x y => 0x8#4 ++ x ++ y ++ 0x4#4
  | .subReg x y => 0x8#4 ++ x ++ y ++ 0x5#4
  | .shrReg x y => 0x8#4 ++ x ++ y ++ 0x6#4
  | .subnReg x y => 0x8#4 ++ x ++ y ++ 0x7#4
  | .shlReg x y => 0x8#4 ++ x ++ y ++ 0xE#4
  | .sneReg x y => 0x9#4 ++ x ++ y ++ 0x0#4
  | .ldI nnn => 0xA#4 ++ nnn
  | .jpV0 nnn => 0xB#4 ++ nnn
  | .rnd x nn => 0xC#4 ++ x ++ nn
  | .drw x y n => 0xD#4 ++ x ++ y ++ n
  | .skp x => 0xE#4 ++ x ++ 0x9E#8
  | .sknp x => 0xE#4 ++ x ++ 0xA1#8
  | .ldVxDt x => 0xF#4 ++ x ++ 0x07#8
  | .ldVxKey x => 0xF#4 ++ x ++ 0x0A#8
  | .ldDtVx x => 0xF#4 ++ x ++ 0x15#8
  | .ldStVx x => 0xF#4 ++ x ++ 0x18#8
  | .addI x => 0xF#4 ++ x ++ 0x1E#8
  | .ldFont x => 0xF#4 ++ x ++ 0x29#8
  | .ldBcd x => 0xF#4 ++ x ++ 0x33#8
  | .storeRegs x => 0xF#4 ++ x ++ 0x55#8
  | .loadRegs x => 0xF#4 ++ x ++ 0x65#8

/-- The bytes of an instruction in memory (R41). -/
def encodeBytes (i : Instr) : List Byte := wordBytes (encode i)

/-- The pattern of the opcode map an instruction belongs to (R56). -/
def Instr.mnemonic : Instr → String
  | .cls => "00E0"
  | .ret => "00EE"
  | .jp _ => "1NNN"
  | .call _ => "2NNN"
  | .seImm _ _ => "3XNN"
  | .sneImm _ _ => "4XNN"
  | .seReg _ _ => "5XY0"
  | .ldImm _ _ => "6XNN"
  | .addImm _ _ => "7XNN"
  | .ldReg _ _ => "8XY0"
  | .orReg _ _ => "8XY1"
  | .andReg _ _ => "8XY2"
  | .xorReg _ _ => "8XY3"
  | .addReg _ _ => "8XY4"
  | .subReg _ _ => "8XY5"
  | .shrReg _ _ => "8XY6"
  | .subnReg _ _ => "8XY7"
  | .shlReg _ _ => "8XYE"
  | .sneReg _ _ => "9XY0"
  | .ldI _ => "ANNN"
  | .jpV0 _ => "BNNN"
  | .rnd _ _ => "CXNN"
  | .drw _ _ _ => "DXYN"
  | .skp _ => "EX9E"
  | .sknp _ => "EXA1"
  | .ldVxDt _ => "FX07"
  | .ldVxKey _ => "FX0A"
  | .ldDtVx _ => "FX15"
  | .ldStVx _ => "FX18"
  | .addI _ => "FX1E"
  | .ldFont _ => "FX29"
  | .ldBcd _ => "FX33"
  | .storeRegs _ => "FX55"
  | .loadRegs _ => "FX65"

/-- A register's name in the assembler syntax, `V0`..`VF` (R59). -/
def regName (x : Nibble) : String := "V" ++ String.ofList [Nat.digitChar x.toNat |>.toUpper]

/-- An assembler line (R59, R60): an instruction is exactly one 16-bit word, `DB` places one byte. -/
inductive AsmLine where
  | op (i : Instr)
  | db (b : Byte)
  deriving DecidableEq, Repr

/-- The text of an instruction in the assembler syntax of R59, immediates in decimal; SHR and SHL name both registers. -/
def Instr.asm : Instr → String
  | .cls => "CLS"
  | .ret => "RET"
  | .jp nnn => "JP " ++ toString nnn.toNat
  | .call nnn => "CALL " ++ toString nnn.toNat
  | .seImm x nn => "SE " ++ regName x ++ ", " ++ toString nn.toNat
  | .sneImm x nn => "SNE " ++ regName x ++ ", " ++ toString nn.toNat
  | .seReg x y => "SE " ++ regName x ++ ", " ++ regName y
  | .ldImm x nn => "LD " ++ regName x ++ ", " ++ toString nn.toNat
  | .addImm x nn => "ADD " ++ regName x ++ ", " ++ toString nn.toNat
  | .ldReg x y => "LD " ++ regName x ++ ", " ++ regName y
  | .orReg x y => "OR " ++ regName x ++ ", " ++ regName y
  | .andReg x y => "AND " ++ regName x ++ ", " ++ regName y
  | .xorReg x y => "XOR " ++ regName x ++ ", " ++ regName y
  | .addReg x y => "ADD " ++ regName x ++ ", " ++ regName y
  | .subReg x y => "SUB " ++ regName x ++ ", " ++ regName y
  | .shrReg x y => "SHR " ++ regName x ++ ", " ++ regName y
  | .subnReg x y => "SUBN " ++ regName x ++ ", " ++ regName y
  | .shlReg x y => "SHL " ++ regName x ++ ", " ++ regName y
  | .sneReg x y => "SNE " ++ regName x ++ ", " ++ regName y
  | .ldI nnn => "LD I, " ++ toString nnn.toNat
  | .jpV0 nnn => "JP V0, " ++ toString nnn.toNat
  | .rnd x nn => "RND " ++ regName x ++ ", " ++ toString nn.toNat
  | .drw x y n => "DRW " ++ regName x ++ ", " ++ regName y ++ ", " ++ toString n.toNat
  | .skp x => "SKP " ++ regName x
  | .sknp x => "SKNP " ++ regName x
  | .ldVxDt x => "LD " ++ regName x ++ ", DT"
  | .ldVxKey x => "LD " ++ regName x ++ ", K"
  | .ldDtVx x => "LD DT, " ++ regName x
  | .ldStVx x => "LD ST, " ++ regName x
  | .addI x => "ADD I, " ++ regName x
  | .ldFont x => "LD F, " ++ regName x
  | .ldBcd x => "LD B, " ++ regName x
  | .storeRegs x => "LD [I], " ++ regName x
  | .loadRegs x => "LD " ++ regName x ++ ", [I]"

/-- The bytes an assembler line places (R60). -/
def AsmLine.bytes : AsmLine → List Byte
  | .op i => encodeBytes i
  | .db b => [b]

/-- The program image of a list of assembler lines (R60). -/
def assemble (lines : List AsmLine) : List Byte := lines.flatMap AsmLine.bytes

end Sys2Proof
end

