-- ==== Sys2Proof/Config.lean ====
section
/-! DEFINITION. The open parameters of the block (spec 00_scope.md R8, 10_state.md R35) and its free values. -/

namespace Sys2Proof

/-- P_SHIFT_MODE (R8, R80; 92_eei_decisions.md D6): which register the shifts take their source from. -/
inductive ShiftMode where
  /-- TABLE: 8XY6 shifts VY into VX, 8XYE shifts VX in place. -/
  | table
  /-- VY: both shift VY into VX. -/
  | vy
  /-- VX: both shift VX in place, VY ignored. -/
  | vx
  deriving DecidableEq, Repr

/-- P_VF_ORDER (R8, R79; 92_eei_decisions.md D5): which of the two writes of `WriteRF` comes last. -/
inductive VfOrder where
  /-- FLAG_FIRST: VF is written before VX, so VX wins when X = 0xF. -/
  | flagFirst
  /-- FLAG_LAST: VX is written before VF, so VF wins when X = 0xF. -/
  | flagLast
  deriving DecidableEq, Repr

/-- P_FONT (R8, R28): the 80 bytes placed at 0x050..0x09F at creation. -/
abbrev Font := Vector Byte 80

/-- The parameters fixed for the life of an instance (R35). A state carries the ones its instance was created with;
no step and no host transaction changes them. -/
structure Config where
  shiftMode : ShiftMode
  vfOrder : VfOrder
  font : Font
  deriving DecidableEq, Repr

/-- RAND (R8, R33, 92_eei_decisions.md D32): the value of the k-th draw of the random input.
It has no body, so nothing can be proved of any value drawn. -/
opaque Config.freeRand : Nat → Byte

end Sys2Proof
end

