-- ==== Sys2Proof/Machine/Defaults.lean ====
section
/-! DEFINITION. The default parameters of the spec (00_scope.md R8, 10_state.md R28). -/

namespace Sys2Proof.Machine

/-- The standard CHIP-8 fontset, one glyph a line (R28). PRESUMED: general knowledge, not in the source
(92_eei_decisions.md D9, log entry 9). -/
def standardFont : Font :=
  #v[0xF0, 0x90, 0x90, 0x90, 0xF0,
     0x20, 0x60, 0x20, 0x20, 0x70,
     0xF0, 0x10, 0xF0, 0x80, 0xF0,
     0xF0, 0x10, 0xF0, 0x10, 0xF0,
     0x90, 0x90, 0xF0, 0x10, 0x10,
     0xF0, 0x80, 0xF0, 0x10, 0xF0,
     0xF0, 0x80, 0xF0, 0x90, 0xF0,
     0xF0, 0x10, 0x20, 0x40, 0x40,
     0xF0, 0x90, 0xF0, 0x90, 0xF0,
     0xF0, 0x90, 0xF0, 0x10, 0xF0,
     0xF0, 0x90, 0xF0, 0x90, 0x90,
     0xE0, 0x90, 0xE0, 0x90, 0xE0,
     0xF0, 0x80, 0x80, 0x80, 0xF0,
     0xE0, 0x90, 0x90, 0x90, 0xE0,
     0xF0, 0x80, 0xF0, 0x80, 0xF0,
     0xF0, 0x80, 0xF0, 0x80, 0x80]

/-- The defaults of R8: P_SHIFT_MODE = TABLE (D6), P_VF_ORDER = FLAG_FIRST (D5), P_FONT = the standard fontset (D9). -/
def defaultConfig : Config := { shiftMode := .table, vfOrder := .flagFirst, font := standardFont }

end Sys2Proof.Machine
end

