-- ==== Sys2Proof/Machine/Memory.lean ====
section
/-! DEFINITION. The 4096-byte memory Mem (spec 20_memory.md R38, R45) as a list of (address, byte) pairs in one
canonical form, and its read and write. -/

namespace Sys2Proof.Machine

/-- MEM_SIZE (R7): addresses 0x000..0xFFF exist (R38). -/
def memSize : Nat := 4096

/-- FONT_BASE (R7). -/
def fontBase : Nat := 0x050

/-- PROG_BASE (R7). -/
def progBase : Nat := 0x200

/-- The memory of one instance: the bytes that differ from their contents at creation. -/
abbrev Memory := List Host.Cell

/-- What an unlisted address reads as: the contents at creation, 0 with the font block at 0x050..0x09F (R37, R45). -/
def unlistedByte (font : Font) (a : Nat) : Byte :=
  if h : fontBase ≤ a ∧ a < fontBase + 80 then font[a - fontBase]'(by omega) else 0

/-- The byte at address `a`. -/
def Memory.read (font : Font) : Memory → Nat → Byte
  | [], a => unlistedByte font a
  | (b, v) :: m, a => if a = b then v else Memory.read font m a

/-- Store `v` at address `a`, keeping the canonical form: a byte that is what an unlisted address reads as is not listed. -/
def Memory.write (font : Font) : Memory → Nat → Byte → Memory
  | [], a, v => if v = unlistedByte font a then [] else [(a, v)]
  | (b, w) :: m, a, v =>
    if a < b then (if v = unlistedByte font a then (b, w) :: m else (a, v) :: (b, w) :: m)
    else if a = b then (if v = unlistedByte font a then m else (a, v) :: m)
    else (b, w) :: Memory.write font m a v

/-- The canonical form: addresses strictly rising, all of them in the address space (R38), and no entry equal to what
an unlisted address reads as. -/
abbrev Memory.wf (font : Font) (m : Memory) : Prop :=
  m.Pairwise (fun c d => c.1 < d.1) ∧ ∀ c ∈ m, c.1 < memSize ∧ c.2 ≠ unlistedByte font c.1

end Sys2Proof.Machine
end

