-- ==== Sys2Proof/Machine/State.lean ====
section
/-! DEFINITION. The state of one core instance (spec 10_state.md), the errors it can hold, and its value at creation
(R37, R129). -/

namespace Sys2Proof.Machine

/-- The display buffer Pix (R23): 32 rows of 64 one-bit pixels. -/
abbrev Frame := Vector (Vector Bool 64) 32

/-- The input state Key[0..15], true meaning pressed (R25). -/
abbrev Keys := Vector Bool 16

/-- The OutOfBounds access kinds (R112). -/
inductive AccessKind where
  /-- A fetch with pc ≥ 4096 or pc + 1 ≥ 4096 (R62). -/
  | fetch
  /-- A call with SP = 16 (R72). -/
  | stackOverflow
  /-- A return with SP = 0 (R70). -/
  | stackUnderflow
  /-- A data byte address ≥ 4096 in DXYN, FX33, FX55, FX65 (R39). -/
  | memory
  /-- V[x] ≥ 16 used as a key index in EX9E, EXA1 (R105). -/
  | keyIndex
  deriving DecidableEq, Repr

/-- The errors of the block (R112). A step that raises one takes a NEXT state in which the error latch holds it
(R114, R115), so no instruction ends in `Host.Outcome.fault`. All three are safe: each is the spec's own error. -/
inductive Fault where
  /-- OutOfBounds: raised by a fetch, 00EE, 2NNN, DXYN, FX33, FX55, FX65, EX9E and EXA1, with the access kind, the
  value and the pc of the instruction (R112, R113). Safe. -/
  | outOfBounds (kind : AccessKind) (value : Nat) (pc : Word)
  /-- UnknownOpcode: raised by the decode of a word that matches no row, with the word and pc (R63, R112). Safe. -/
  | unknownOpcode (word pc : Word)
  /-- LoadTooLarge: returned by the Load transaction with the image length; never latched (R112, R117). Safe. -/
  | loadTooLarge (length : Nat)
  deriving DecidableEq, Repr

/-- Why the model would give an instruction no meaning. -/
inductive Refusal where
  /-- The instruction has no meaning yet. Raised by no arm: every instruction of R56 has one. Safe. -/
  | notModelled (mnemonic : String)
  deriving DecidableEq, Repr

/-- The state of one core instance (10_state.md, the tuple at its head). The last two fields are the model's own:
the position in the random input, and the parameters the instance was created with (R33, R35). -/
structure State where
  /-- Mem, 4096 bytes (R38), in canonical form. -/
  mem : Memory
  /-- V0..VF (R13). -/
  v : Vector Byte 16
  /-- The index register I (R19). -/
  i : Word
  /-- The program counter (R16). -/
  pc : Word
  /-- The call stack's 16 entries (R20). -/
  stack : Vector Word 16
  /-- The stack pointer, the number of valid entries, in [0,16] (R20). -/
  sp : Fin 17
  /-- The delay timer DT (R22). -/
  dt : Byte
  /-- The sound timer ST (R22). -/
  st : Byte
  /-- The display buffer Pix (R23). -/
  pix : Frame
  /-- The dirty flag (R24). -/
  dirty : Bool
  /-- The input state Key (R25). -/
  key : Keys
  /-- The key-wait latch KW: the register that waits for a key (R26). -/
  kw : Option Nibble
  /-- The error latch ERR (R27). -/
  err : Option Fault
  /-- The model's own: how many values of RAND have been drawn (log entry 32). -/
  draws : Nat
  /-- The model's own: the instance's parameters (R35, log entry 33). -/
  cfg : Config
  deriving DecidableEq, Repr

/-- Machine creation, the only reset, of an instance with the parameters `cfg` (R37, R129). Nothing is listed in
memory: every byte reads as its contents at creation. -/
def State.create (cfg : Config) : State where
  mem := []
  v := Vector.replicate 16 0
  i := 0
  pc := 0x200
  stack := Vector.replicate 16 0
  sp := 0
  dt := 0
  st := 0
  pix := Vector.replicate 32 (Vector.replicate 64 false)
  dirty := false
  key := Vector.replicate 16 false
  kw := none
  err := none
  draws := 0
  cfg := cfg

/-- The machine right after creation with the default parameters (R8, R37). -/
def State.reset : State := State.create defaultConfig

/-- What an instruction or a step answers. -/
abbrev Result := Host.Outcome State Fault Refusal

end Sys2Proof.Machine
end

