-- ==== Sys2Proof/Machine/Ops.lean ====
section
/-! DEFINITION. The shared operations over registers, memory, stack and keys, the pc updates of 40_cycle.md R64, and
the one operation that takes an error (60_exceptions.md R114, R115). -/

namespace Sys2Proof.Machine

/-! ## Registers (R11) -/

/-- `V[x]`. Every register is readable, none is hardwired (R13). -/
def State.readV (s : State) (x : Nibble) : Byte := s.v[x.toNat]'x.isLt

/-- `V[x] <- b`. -/
def State.writeV (s : State) (x : Nibble) (b : Byte) : State := { s with v := s.v.set x.toNat b x.isLt }

/-- `I <- w`. No write masks I (R19, 90_conflicts.md C10). -/
def State.setI (s : State) (w : Word) : State := { s with i := w }

/-- `pc <- target`, with no bound enforced at the write (R17). -/
def State.setPc (s : State) (w : Word) : State := { s with pc := w }

/-- `DT <- b`. -/
def State.setDt (s : State) (b : Byte) : State := { s with dt := b }

/-- `ST <- b`. -/
def State.setSt (s : State) (b : Byte) : State := { s with st := b }

/-- `Pix <- f`, every pixel at once. -/
def State.setPix (s : State) (f : Frame) : State := { s with pix := f }

/-- `Dirty <- b`. -/
def State.setDirty (s : State) (b : Bool) : State := { s with dirty := b }

/-- `Key <- k`, all 16 entries. -/
def State.setKeys (s : State) (k : Keys) : State := { s with key := k }

/-- `KW <- r`. -/
def State.setKw (s : State) (r : Option Nibble) : State := { s with kw := r }

/-- One value of the random input has been taken (R33). -/
def State.drew (s : State) : State := { s with draws := s.draws + 1 }

/-! ## The pc update (R64) -/

/-- `pc <- pc + 2`, the generic advance; 16-bit arithmetic. -/
def State.advance (s : State) : State := s.setPc (s.pc + 2)

/-- A skip: `pc + 4` when the condition holds, `pc + 2` otherwise. -/
def State.skipIf (s : State) (c : Bool) : State := s.setPc (if c then s.pc + 4 else s.pc + 2)

/-! ## Taking an error

There is no trap entry, no handler and no return from one (R120): an error leaves the latch set and every other piece
of state as it was (R114, R115), and a halted engine executes nothing (R116). -/

/-- The numeric code of an error kind (R112). -/
def Fault.code : Fault → Nat
  | .outOfBounds _ _ _ => 1
  | .unknownOpcode _ _ => 2
  | .loadTooLarge _ => 3

/-- `ERR <- f`. -/
def State.latch (s : State) (f : Fault) : State := { s with err := some f }

/-- `raise f`: the step writes nothing but the error latch (R114, R115). -/
def raise (f : Fault) (s : State) : Result := .next (s.latch f)

/-! ## Memory (R39) -/

/-- `Mem[a]`. -/
def State.readByte (s : State) (a : Nat) : Byte := Memory.read s.cfg.font s.mem a

/-- `Mem[a] <- v`. -/
def State.writeByte (s : State) (a : Nat) (v : Byte) : State := { s with mem := Memory.write s.cfg.font s.mem a v }

/-- `Mem[a + k] <- bs[k]` for every k, in rising order (R97, R98, R131). -/
def State.writeBytes (s : State) (a : Nat) : List Byte → State
  | [] => s
  | b :: bs => (s.writeByte a b).writeBytes (a + 1) bs

/-- The `n` bytes from address `a` on, in rising order (R99, R103). -/
def State.readBytes (s : State) (a n : Nat) : List Byte := (List.range n).map (fun k => s.readByte (a + k))

/-- An access to `n` bytes at I touches an address ≥ 4096: the addresses are I + k, unbounded naturals, never wrapped
(R12, R39, R93). An access to no byte touches none (R103). -/
def State.outOfMemory (s : State) (n : Nat) : Bool := decide (0 < n) && decide (memSize < s.i.toNat + n)

/-- The error of a data access: the first out-of-range address it would touch, max(I, 4096) (R39). -/
def State.memoryFault (s : State) : Fault := .outOfBounds .memory (max s.i.toNat memSize) s.pc

/-- An instruction that accesses `n` bytes at I: every byte is checked before anything is written (R39, R66). -/
def ifInMemory (n : Nat) (s t : State) : Result := if s.outOfMemory n then raise s.memoryFault s else .next t

/-! ## The call stack (R20) -/

/-- `Stack[SP] <- w ; SP <- SP + 1`. -/
def State.push (s : State) (h : s.sp.val < 16) (w : Word) : State :=
  { s with stack := s.stack.set s.sp.val w h, sp := ⟨s.sp.val + 1, by omega⟩ }

/-- `SP <- SP - 1`; the entry keeps its value (R70). -/
def State.pop (s : State) : State := { s with sp := ⟨s.sp.val - 1, by omega⟩ }

/-- `Stack[SP - 1]`, the most recent call site (R20, R21). -/
def State.top (s : State) : Word := s.stack[s.sp.val - 1]'(by omega)

/-! ## The input state (R25) -/

/-- `Key[k]`; a value ≥ 16 names no key (R105). -/
def State.keyDown (s : State) (k : Nat) : Bool := if h : k < 16 then s.key[k] else false

/-- `Key[k] <- false`: the key is consumed (R25). -/
def State.consumeKey (s : State) (k : Nat) : State := { s with key := s.key.setIfInBounds k false }

/-- The least pressed key (R65, R108; 92_eei_decisions.md D14). -/
def State.leastKey (s : State) : Option Nat := (List.range 16).find? s.keyDown

/-- Capture key `k` into V[x] and consume it; pc goes on to the next instruction (R65, R108). -/
def State.captureKey (s : State) (x : Nibble) (k : Nat) : State :=
  ((s.writeV x (BitVec.ofNat 8 k)).consumeKey k).advance

end Sys2Proof.Machine
end

