-- ==== Sys2Proof/Machine/Operands.lean ====
section
/-! DEFINITION. The operand forms (spec 30_encoding.md R53, 42_alu.md R80, 43_index_memory.md R93, R96): immediates,
register operands, the shift source, and the register block of FX55 and FX65. -/

namespace Sys2Proof.Machine

/-- NNN zero-extended to 16 bits (R53). -/
def zextAddr (nnn : Addr) : Word := nnn.setWidth 16

/-- A register value zero-extended to 16 bits (R73, R95, R96). -/
def zextByte (b : Byte) : Word := b.setWidth 16

/-- V0, the register of BNNN; its X field is not a register selector (R73). -/
def State.v0 (s : State) : Byte := s.readV 0

/-- The source of 8XY6 (R80, R89): V[x] under VX, else V[y]. -/
def State.shrSource (s : State) (x y : Nibble) : Byte :=
  match s.cfg.shiftMode with
  | .table => s.readV y
  | .vy => s.readV y
  | .vx => s.readV x

/-- The source of 8XYE (R80, R91): V[y] under VY, else V[x]. -/
def State.shlSource (s : State) (x y : Nibble) : Byte :=
  match s.cfg.shiftMode with
  | .table => s.readV x
  | .vy => s.readV y
  | .vx => s.readV x

/-- The address of the glyph of V[x]: FONT_BASE + 5 V[x], the whole value used (R96). -/
def glyphAddress (b : Byte) : Word := 0x050 + 5 * zextByte b

/-- The BCD digits of a byte: hundreds, tens, units (R97). -/
def bcdDigits (v : Byte) : List Byte :=
  [BitVec.ofNat 8 (v.toNat / 100), BitVec.ofNat 8 (v.toNat / 10 % 10), BitVec.ofNat 8 (v.toNat % 10)]

/-- The register block V0..Vx, both ends included (R98, R99). -/
def State.regBlock (s : State) (x : Nibble) : List Byte :=
  (List.range (x.toNat + 1)).map (fun k => s.readV (BitVec.ofNat 4 k))

/-- `V[k], V[k + 1], … <- bs`, in rising order (R99). -/
def State.writeRegs (s : State) (k : Nat) : List Byte → State
  | [] => s
  | b :: bs => (s.writeV (BitVec.ofNat 4 k) b).writeRegs (k + 1) bs

end Sys2Proof.Machine
end

