-- ==== Sys2Proof/Machine/Flags.lean ====
section
/-! DEFINITION. The flag values and their write (spec 42_alu.md R78, R79). VF (register 0xF) is the only flag register
(10_state.md R14). -/

namespace Sys2Proof.Machine

/-- FLAG_REG (R7). -/
def flagReg : Nibble := 0xF

/-- A flag value is 0 or 1 (R14). -/
def flagByte (b : Bool) : Byte := if b then 1 else 0

/-- The carry of a + b: the 9-bit sum is above 255 (R78, R87). -/
def carryFlag (a b : Byte) : Byte := flagByte (decide (a.toNat + b.toNat > 255))

/-- Not borrow of a - b: 0 when b > a, else 1 (R88, R90). -/
def notBorrowFlag (a b : Byte) : Byte := flagByte (!decide (b.toNat > a.toNat))

/-- Bit 0 of the shift source, before the shift (R89). -/
def lowBitFlag (v : Byte) : Byte := flagByte (v.getLsbD 0)

/-- Bit 7 of the shift source, before the shift (R91). -/
def highBitFlag (v : Byte) : Byte := flagByte (v.getLsbD 7)

/-- `WriteRF(x, r, f)` (R79): the result to V[x] and the flag to VF, in the order of P_VF_ORDER. -/
def State.writeRF (s : State) (x : Nibble) (r f : Byte) : State :=
  match s.cfg.vfOrder with
  | .flagFirst => (s.writeV flagReg f).writeV x r
  | .flagLast => (s.writeV x r).writeV flagReg f

end Sys2Proof.Machine
end

