-- ==== Sys2Proof/Machine/Alu.lean ====
section
/-! DEFINITION. Register arithmetic and logic (spec 42_alu.md). Every instruction reads its operands before any write
(40_cycle.md R66), raises nothing and ends with `pc <- pc + 2`. -/

namespace Sys2Proof.Machine

/-- `6XNN` LD Vx, nn (R81). -/
def execLdImm (x : Nibble) (nn : Byte) (s : State) : Result := .next (s.writeV x nn).advance

/-- `7XNN` ADD Vx, nn (R82): no carry is written. -/
def execAddImm (x : Nibble) (nn : Byte) (s : State) : Result := .next (s.writeV x (s.readV x + nn)).advance

/-- `8XY0` LD Vx, Vy (R83). -/
def execLdReg (x y : Nibble) (s : State) : Result := .next (s.writeV x (s.readV y)).advance

/-- `8XY1` OR Vx, Vy (R84): VF is not reset. -/
def execOrReg (x y : Nibble) (s : State) : Result := .next (s.writeV x (s.readV x ||| s.readV y)).advance

/-- `8XY2` AND Vx, Vy (R85). -/
def execAndReg (x y : Nibble) (s : State) : Result := .next (s.writeV x (s.readV x &&& s.readV y)).advance

/-- `8XY3` XOR Vx, Vy (R86). -/
def execXorReg (x y : Nibble) (s : State) : Result := .next (s.writeV x (s.readV x ^^^ s.readV y)).advance

/-- `8XY4` ADD Vx, Vy (R87): VF = carry. -/
def execAddReg (x y : Nibble) (s : State) : Result :=
  .next (s.writeRF x (s.readV x + s.readV y) (carryFlag (s.readV x) (s.readV y))).advance

/-- `8XY5` SUB Vx, Vy (R88): VF = not borrow of V[x] - V[y]. -/
def execSubReg (x y : Nibble) (s : State) : Result :=
  .next (s.writeRF x (s.readV x - s.readV y) (notBorrowFlag (s.readV x) (s.readV y))).advance

/-- `8XY6` SHR Vx, Vy (R89): VF = bit 0 of the source. -/
def execShrReg (x y : Nibble) (s : State) : Result :=
  .next (s.writeRF x (s.shrSource x y >>> 1) (lowBitFlag (s.shrSource x y))).advance

/-- `8XY7` SUBN Vx, Vy (R90): VF = not borrow of V[y] - V[x]. -/
def execSubnReg (x y : Nibble) (s : State) : Result :=
  .next (s.writeRF x (s.readV y - s.readV x) (notBorrowFlag (s.readV y) (s.readV x))).advance

/-- `8XYE` SHL Vx, Vy (R91): VF = bit 7 of the source. -/
def execShlReg (x y : Nibble) (s : State) : Result :=
  .next (s.writeRF x (s.shlSource x y <<< 1) (highBitFlag (s.shlSource x y))).advance

/-- CXNN with `r` the value drawn (R92). -/
def State.rndWith (s : State) (r : Byte) (x : Nibble) (nn : Byte) : State := ((s.writeV x (r &&& nn)).drew).advance

/-- `CXNN` RND Vx, nn (R92): one value of the random input is taken, whatever NN is. -/
def execRnd (x : Nibble) (nn : Byte) (s : State) : Result := .next (s.rndWith (Config.freeRand s.draws) x nn)

end Sys2Proof.Machine
end

