-- ==== Sys2Proof/Machine/Display.lean ====
section
/-! DEFINITION. The display buffer and the XOR draw (spec 44_display.md): 00E0 and DXYN. -/

namespace Sys2Proof.Machine

/-- `Pix[x][y]`, column x and row y (R100). -/
def Frame.at (f : Frame) (x : Fin 64) (y : Fin 32) : Bool := (f[y.val]'y.isLt)[x.val]'x.isLt

/-- `Pix[x][y] <- Pix[x][y] XOR 1`. -/
def Frame.toggle (f : Frame) (x : Fin 64) (y : Fin 32) : Frame :=
  f.set y.val ((f[y.val]'y.isLt).set x.val (!f.at x y) x.isLt) y.isLt

/-- The frame with every pixel 0 (R102). -/
def Frame.blank : Frame := Vector.replicate 32 (Vector.replicate 64 false)

/-- The column of sprite column `c` drawn at `x0`: it wraps modulo 64 (R100). -/
def spriteColumn (x0 : Byte) (c : Nat) : Fin 64 := ⟨(x0.toNat + c) % 64, Nat.mod_lt _ (by decide)⟩

/-- The row of sprite row `r` drawn at `y0`: it wraps modulo 32 (R100). -/
def spriteRow (y0 : Byte) (r : Nat) : Fin 32 := ⟨(y0.toNat + r) % 32, Nat.mod_lt _ (by decide)⟩

/-- Whether column `c` of a sprite row is set: bit 7 is column 0, the leftmost (R101; PRESUMED, D10, log entry 10). -/
def spriteBit (row : Byte) (c : Nat) : Bool := row.getLsbD (7 - c)

/-- One 1 bit of a sprite: a set pixel is a collision, and the pixel is toggled (R103). -/
def plot (x : Fin 64) (y : Fin 32) (cv : Frame × Bool) : Frame × Bool := (cv.1.toggle x y, cv.2 || cv.1.at x y)

/-- One row of a sprite, columns 0 to 7 (R103). -/
def drawRow (x0 : Byte) (y : Fin 32) (row : Byte) (cv : Frame × Bool) : Frame × Bool :=
  (List.range 8).foldl (fun cv c => if spriteBit row c then plot (spriteColumn x0 c) y cv else cv) cv

/-- The rows of a sprite from row `r` on (R103); the second component is `hit`. -/
def drawRows (x0 y0 : Byte) : Nat → List Byte → Frame × Bool → Frame × Bool
  | _, [], cv => cv
  | r, row :: rows, cv => drawRows x0 y0 (r + 1) rows (drawRow x0 (spriteRow y0 r) row cv)

/-- The display after drawing `n` sprite bytes from I at (V[x], V[y]), and whether a pixel went from 1 to 0 (R103). -/
def State.drawn (s : State) (x y n : Nibble) : Frame × Bool :=
  drawRows (s.readV x) (s.readV y) 0 (s.readBytes s.i.toNat n.toNat) (s.pix, false)

/-- `00E0` CLS (R102). -/
def execCls (s : State) : Result := .next ((s.setPix Frame.blank).setDirty true).advance

/-- `DXYN` DRW Vx, Vy, n (R103). -/
def execDrw (x y n : Nibble) (s : State) : Result :=
  ifInMemory n.toNat s
    (((s.setPix (s.drawn x y n).1).writeV flagReg (flagByte (s.drawn x y n).2)).setDirty true).advance

end Sys2Proof.Machine
end

