-- ==== Sys2Proof/Machine/Flow.lean ====
section
/-! DEFINITION. Control transfer (spec 41_control_flow.md): 00EE, 1NNN, 2NNN, BNNN and the register and immediate skips. -/

namespace Sys2Proof.Machine

/-- `00EE` RET (R70): return to the call site plus 2. -/
def execRet (s : State) : Result :=
  if s.sp.val = 0 then raise (.outOfBounds .stackUnderflow s.pc.toNat s.pc) s
  else .next (s.pop.setPc (s.top + 2))

/-- `1NNN` JP nnn (R71). -/
def execJp (nnn : Addr) (s : State) : Result := .next (s.setPc (zextAddr nnn))

/-- `2NNN` CALL nnn (R72): the pushed value is the address of the call itself. -/
def execCall (nnn : Addr) (s : State) : Result :=
  if h : s.sp.val < 16 then .next ((s.push h s.pc).setPc (zextAddr nnn))
  else raise (.outOfBounds .stackOverflow s.pc.toNat s.pc) s

/-- `BNNN` JP V0, nnn (R73): the sum is not masked to 12 bits. -/
def execJpV0 (nnn : Addr) (s : State) : Result := .next (s.setPc (zextByte s.v0 + zextAddr nnn))

/-- `3XNN` SE Vx, nn (R74). -/
def execSeImm (x : Nibble) (nn : Byte) (s : State) : Result := .next (s.skipIf (s.readV x == nn))

/-- `4XNN` SNE Vx, nn (R75). -/
def execSneImm (x : Nibble) (nn : Byte) (s : State) : Result := .next (s.skipIf (s.readV x != nn))

/-- `5XY0` SE Vx, Vy (R76). -/
def execSeReg (x y : Nibble) (s : State) : Result := .next (s.skipIf (s.readV x == s.readV y))

/-- `9XY0` SNE Vx, Vy (R77). -/
def execSneReg (x y : Nibble) (s : State) : Result := .next (s.skipIf (s.readV x != s.readV y))

end Sys2Proof.Machine
end

