-- ==== Sys2Proof/Machine/Index.lean ====
section
/-! DEFINITION. The index register, font address, BCD, register block store and load (spec 43_index_memory.md). No
access changes I (R93). -/

namespace Sys2Proof.Machine

/-- `ANNN` LD I, nnn (R94). -/
def execLdI (nnn : Addr) (s : State) : Result := .next (s.setI (zextAddr nnn)).advance

/-- `FX1E` ADD I, Vx (R95): mod 65536, VF never written. -/
def execAddI (x : Nibble) (s : State) : Result := .next (s.setI (s.i + zextByte (s.readV x))).advance

/-- `FX29` LD F, Vx (R96). -/
def execLdFont (x : Nibble) (s : State) : Result := .next (s.setI (glyphAddress (s.readV x))).advance

/-- `FX33` LD B, Vx (R97). -/
def execLdBcd (x : Nibble) (s : State) : Result :=
  ifInMemory 3 s (s.writeBytes s.i.toNat (bcdDigits (s.readV x))).advance

/-- `FX55` LD [I], Vx (R98). -/
def execStoreRegs (x : Nibble) (s : State) : Result :=
  ifInMemory (x.toNat + 1) s (s.writeBytes s.i.toNat (s.regBlock x)).advance

/-- `FX65` LD Vx, [I] (R99). -/
def execLoadRegs (x : Nibble) (s : State) : Result :=
  ifInMemory (x.toNat + 1) s (s.writeRegs 0 (s.readBytes s.i.toNat (x.toNat + 1))).advance

end Sys2Proof.Machine
end

