-- ==== Sys2Proof/Machine/KeysTimers.lean ====
section
/-! DEFINITION. Key tests, key wait and timer access (spec 45_keys_timers.md). -/

namespace Sys2Proof.Machine

/-- The error of a key index ≥ 16 (R105). -/
def State.keyFault (s : State) (x : Nibble) : Fault := .outOfBounds .keyIndex (s.readV x).toNat s.pc

/-- `EX9E` SKP Vx (R106): skip if the key is pressed, and consume it. -/
def execSkp (x : Nibble) (s : State) : Result :=
  if 16 ≤ (s.readV x).toNat then raise (s.keyFault x) s
  else if s.keyDown (s.readV x).toNat then .next ((s.consumeKey (s.readV x).toNat).skipIf true)
  else .next (s.skipIf false)

/-- `EXA1` SKNP Vx (R107): skip if the key is not pressed, else consume it. -/
def execSknp (x : Nibble) (s : State) : Result :=
  if 16 ≤ (s.readV x).toNat then raise (s.keyFault x) s
  else if s.keyDown (s.readV x).toNat then .next ((s.consumeKey (s.readV x).toNat).skipIf false)
  else .next (s.skipIf true)

/-- `FX0A` LD Vx, K (R108): capture the least pressed key, or latch the wait and leave pc where it is. -/
def execLdVxKey (x : Nibble) (s : State) : Result :=
  match s.leastKey with
  | some k => .next (s.captureKey x k)
  | none => .next (s.setKw (some x))

/-- `FX07` LD Vx, DT (R109). -/
def execLdVxDt (x : Nibble) (s : State) : Result := .next (s.writeV x s.dt).advance

/-- `FX15` LD DT, Vx (R110). -/
def execLdDtVx (x : Nibble) (s : State) : Result := .next (s.setDt (s.readV x)).advance

/-- `FX18` LD ST, Vx (R111). -/
def execLdStVx (x : Nibble) (s : State) : Result := .next (s.setSt (s.readV x)).advance

end Sys2Proof.Machine
end

