-- ==== Sys2Proof/Machine/Fetch.lean ====
section
/-! DEFINITION. The fetch, the errors of fetch and decode, the pending key wait, and where a word is placed to be
fetched next (spec 40_cycle.md R62, R63, R65). -/

namespace Sys2Proof.Machine

/-- Both bytes of the fetch are in memory: pc < 4096 and pc + 1 < 4096 (R62). -/
def State.fetchOk (s : State) : Bool := decide (s.pc.toNat < memSize) && decide (s.pc.toNat + 1 < memSize)

/-- The word at pc, big-endian: the byte at pc is bits 15:8 (R41, R62). -/
def State.fetchWord (s : State) : Word := joinBytes (s.readByte s.pc.toNat) (s.readByte (s.pc.toNat + 1))

/-- The error of a failed fetch (R62). -/
def State.fetchFault (s : State) : Fault := .outOfBounds .fetch s.pc.toNat s.pc

/-- The error of a word that matches no row (R63). -/
def State.decodeFault (s : State) : Fault := .unknownOpcode s.fetchWord s.pc

/-- `StepKeyWait` (R65): KW = x and pc is the address of the FX0A; nothing is fetched. -/
def State.keyWait (s : State) (x : Nibble) : State :=
  match s.leastKey with
  | some k => (s.setKw none).captureKey x k
  | none => s

/-- The state in which the very next step fetches the word `w` and runs it: the engine neither halted nor waiting, pc
where two bytes can be fetched, and the word there, big-endian. From a running state with pc ≤ 0xFFE only memory
changes (log entry 36). -/
def State.placeWord (s : State) (w : Word) : State :=
  let t := { s with err := none, kw := none, pc := if s.fetchOk then s.pc else 0x200 }
  t.writeBytes t.pc.toNat (wordBytes w)

end Sys2Proof.Machine
end

