-- ==== Sys2Proof/Machine/Step.lean ====
section
/-! DEFINITION. The Step transaction (spec 40_cycle.md R61), checking in the order of 60_exceptions.md R118. -/

namespace Sys2Proof.Machine

/-- One fetch-decode-execute cycle (R61). A halted engine changes nothing (R116); a pending key wait does not fetch
(R65). The error a step returns, raised or latched, is the `err` of the state it leaves (R115, R116). -/
def step (s : State) : Host.Outcome State Fault Refusal :=
  match s.err with
  | some _ => .next s
  | none =>
    match s.kw with
    | some x => .next (s.keyWait x)
    | none =>
      if s.fetchOk then
        match decodeWord s.fetchWord with
        | some i => exec i s
        | none => raise s.decodeFault s
      else raise s.fetchFault s

/-- The host's way to place one instruction: its word, numbered as the opcode table numbers it, where the next step
fetches. -/
def State.withFetchWord (s : State) (nbits w : Nat) : State := s.placeWord (BitVec.ofNat 16 (w % 2 ^ nbits))

end Sys2Proof.Machine
end

