-- ==== Sys2Proof/Machine/Transactions.lean ====
section
/-! DEFINITION. The host transactions (spec 10_state.md R30 to R34): Load, Step, Tick, SetInput, ReadFrame, and the
read-only status view. Each is one atomic change of the state. -/

namespace Sys2Proof.Machine

/-- Load (R131): the image at 0x200 and nothing else; an image of more than 3584 bytes is LoadTooLarge, nothing is
written, and the latch is not set (R117). -/
def load (image : List Byte) (s : State) : State × Option Fault :=
  if imageWf image then (s.writeBytes progBase image, none) else (s, some (.loadTooLarge image.length))

/-- Tick (R122): each timer down by 1 if nonzero; the output is beep_off, true when ST was 1. -/
def tick (s : State) : State × Bool :=
  ((s.setDt (if s.dt = 0 then 0 else s.dt - 1)).setSt (if s.st = 0 then 0 else s.st - 1), s.st == 1)

/-- SetInput (R31): all 16 key entries replaced. -/
def setInput (k : Keys) (s : State) : State := s.setKeys k

/-- ReadFrame (R104): the pixel grid as it stands, and Dirty cleared. -/
def readFrame (s : State) : State × Frame := (s.setDirty false, s.pix)

/-- The Step transaction with what it returns: Ok (`none`) or the error raised or latched (R30, R61, R116). -/
def stepTransaction (s : State) : State × Option Fault :=
  match step s with
  | .next t => (t, t.err)
  | .fault f => (s.latch f, some f)
  | .refused _ => (s, s.err)

/-- The five transactions with their inputs (R30). -/
inductive Transaction where
  | load (image : List Byte)
  | step
  | tick
  | setInput (k : Keys)
  | readFrame
  deriving DecidableEq, Repr

/-- What a transaction gives back (R30, R139). -/
inductive Response where
  /-- Load: Ok (`none`) or LoadTooLarge. -/
  | loaded (r : Option Fault)
  /-- Step: Ok (`none`) or the error. -/
  | stepped (r : Option Fault)
  /-- Tick: beep_off. -/
  | ticked (beepOff : Bool)
  /-- SetInput gives nothing back. -/
  | inputSet
  /-- ReadFrame: the 64×32 pixel grid. -/
  | frame (f : Frame)
  deriving DecidableEq, Repr

/-- One transaction: an atomic change of the state and its response (R30, R34). -/
def transact (t : Transaction) (s : State) : State × Response :=
  match t with
  | .load image => ((load image s).1, .loaded (load image s).2)
  | .step => ((stepTransaction s).1, .stepped (stepTransaction s).2)
  | .tick => ((tick s).1, .ticked (tick s).2)
  | .setInput k => (setInput k s, .inputSet)
  | .readFrame => ((readFrame s).1, .frame (readFrame s).2)

/-- A run: a finite sequence of host transactions, in the order the host issues them (R34, R139; D28, D30). -/
def runTransactions : List Transaction → State → State
  | [], s => s
  | t :: ts, s => runTransactions ts (transact t s).1

/-- The read-only view the host inspects (R32): the status, and the register and memory contents. -/
structure StatusView where
  dirty : Bool
  err : Option Fault
  kw : Option Nibble
  st : Byte
  soundActive : Bool
  v : Vector Byte 16
  i : Word
  pc : Word
  sp : Fin 17
  dt : Byte
  /-- The 4096 bytes of Mem, from address 0 on. -/
  mem : List Byte
  deriving DecidableEq, Repr

/-- Inspecting the status has no side effect (R32); sound is on while ST > 0 (R124). -/
def State.status (s : State) : StatusView where
  dirty := s.dirty
  err := s.err
  kw := s.kw
  st := s.st
  soundActive := decide (0 < s.st.toNat)
  v := s.v
  i := s.i
  pc := s.pc
  sp := s.sp
  dt := s.dt
  mem := s.readBytes 0 memSize

end Sys2Proof.Machine
end

