-- ==== Sys2Proof/Safety.lean ====
section
/-! DEFINITION. The terms the statements use: which component of the state an instruction may write, which error it
raises, the invariants of the state, and what a safe run is. Each is written from the spec's rules, not from the
meanings. -/

namespace Sys2Proof.Machine

/-! ## Frames -/

/-- The pieces of the state (10_state.md, the tuple at its head), and the model's own two. -/
inductive Component where
  | mem | v | i | pc | stack | sp | dt | st | pix | dirty | key | kw | err | draws | cfg
  deriving DecidableEq, Repr

/-- `t` has the component as `s` has it. Memory, registers, pixels and keys are compared through their reads. -/
def Component.agree (c : Component) (s t : State) : Prop :=
  match c with
  | .mem => ∀ a, t.readByte a = s.readByte a
  | .v => ∀ r, t.readV r = s.readV r
  | .i => t.i = s.i
  | .pc => t.pc = s.pc
  | .stack => t.stack = s.stack
  | .sp => t.sp = s.sp
  | .dt => t.dt = s.dt
  | .st => t.st = s.st
  | .pix => ∀ x y, t.pix.at x y = s.pix.at x y
  | .dirty => t.dirty = s.dirty
  | .key => ∀ k, t.keyDown k = s.keyDown k
  | .kw => t.kw = s.kw
  | .err => t.err = s.err
  | .draws => t.draws = s.draws
  | .cfg => t.cfg = s.cfg

/-- From `s` to `t` only the components `cs` may differ. -/
def OnlyWrites (cs : List Component) (s t : State) : Prop := ∀ c, c ∉ cs → c.agree s t

/-- The components an instruction's rule names as written when it raises nothing (R64, R69 to R111). -/
def writeSet : Instr → List Component
  | .cls => [.pix, .dirty, .pc]
  | .ret => [.sp, .pc]
  | .jp _ => [.pc]
  | .call _ => [.stack, .sp, .pc]
  | .seImm _ _ => [.pc]
  | .sneImm _ _ => [.pc]
  | .seReg _ _ => [.pc]
  | .ldImm _ _ => [.v, .pc]
  | .addImm _ _ => [.v, .pc]
  | .ldReg _ _ => [.v, .pc]
  | .orReg _ _ => [.v, .pc]
  | .andReg _ _ => [.v, .pc]
  | .xorReg _ _ => [.v, .pc]
  | .addReg _ _ => [.v, .pc]
  | .subReg _ _ => [.v, .pc]
  | .shrReg _ _ => [.v, .pc]
  | .subnReg _ _ => [.v, .pc]
  | .shlReg _ _ => [.v, .pc]
  | .sneReg _ _ => [.pc]
  | .ldI _ => [.i, .pc]
  | .jpV0 _ => [.pc]
  | .rnd _ _ => [.v, .draws, .pc]
  | .drw _ _ _ => [.v, .pix, .dirty, .pc]
  | .skp _ => [.key, .pc]
  | .sknp _ => [.key, .pc]
  | .ldVxDt _ => [.v, .pc]
  | .ldVxKey _ => [.v, .key, .kw, .pc]
  | .ldDtVx _ => [.dt, .pc]
  | .ldStVx _ => [.st, .pc]
  | .addI _ => [.i, .pc]
  | .ldFont _ => [.i, .pc]
  | .ldBcd _ => [.mem, .pc]
  | .storeRegs _ => [.mem, .pc]
  | .loadRegs _ => [.v, .pc]

/-- The general registers an instruction's rule names as written: its destination, VF where it defines a flag (R14,
R15), V0..Vx for FX65 (R99). -/
def destRegs : Instr → List Nibble
  | .ldImm x _ => [x]
  | .addImm x _ => [x]
  | .ldReg x _ => [x]
  | .orReg x _ => [x]
  | .andReg x _ => [x]
  | .xorReg x _ => [x]
  | .addReg x _ => [x, 0xF]
  | .subReg x _ => [x, 0xF]
  | .shrReg x _ => [x, 0xF]
  | .subnReg x _ => [x, 0xF]
  | .shlReg x _ => [x, 0xF]
  | .rnd x _ => [x]
  | .drw _ _ _ => [0xF]
  | .ldVxDt x => [x]
  | .ldVxKey x => [x]
  | .loadRegs x => (List.range (x.toNat + 1)).map (BitVec.ofNat 4)
  | .cls => []
  | .ret => []
  | .jp _ => []
  | .call _ => []
  | .seImm _ _ => []
  | .sneImm _ _ => []
  | .seReg _ _ => []
  | .sneReg _ _ => []
  | .ldI _ => []
  | .jpV0 _ => []
  | .skp _ => []
  | .sknp _ => []
  | .ldDtVx _ => []
  | .ldStVx _ => []
  | .addI _ => []
  | .ldFont _ => []
  | .ldBcd _ => []
  | .storeRegs _ => []

/-! ## Errors -/

/-- The error of an access to `n > 0` bytes at I (R113). -/
def spanError (n : Nat) (s : State) : Option Fault :=
  if 0 < n ∧ s.i.toNat + n - 1 ≥ 4096 then some (.outOfBounds .memory (max s.i.toNat 4096) s.pc) else none

/-- The error of a key index (R113). -/
def keyError (x : Nibble) (s : State) : Option Fault :=
  if (s.readV x).toNat ≥ 16 then some (.outOfBounds .keyIndex (s.readV x).toNat s.pc) else none

/-- The instructions that can raise in their execute phase, and when: the table of R113, with the records of R112. -/
def execError (i : Instr) (s : State) : Option Fault :=
  match i with
  | .ret => if s.sp.val = 0 then some (.outOfBounds .stackUnderflow s.pc.toNat s.pc) else none
  | .call _ => if s.sp.val = 16 then some (.outOfBounds .stackOverflow s.pc.toNat s.pc) else none
  | .drw _ _ n => spanError n.toNat s
  | .ldBcd _ => spanError 3 s
  | .storeRegs x => spanError (x.toNat + 1) s
  | .loadRegs x => spanError (x.toNat + 1) s
  | .skp x => keyError x s
  | .sknp x => keyError x s
  | .cls => none
  | .jp _ => none
  | .seImm _ _ => none
  | .sneImm _ _ => none
  | .seReg _ _ => none
  | .ldImm _ _ => none
  | .addImm _ _ => none
  | .ldReg _ _ => none
  | .orReg _ _ => none
  | .andReg _ _ => none
  | .xorReg _ _ => none
  | .addReg _ _ => none
  | .subReg _ _ => none
  | .shrReg _ _ => none
  | .subnReg _ _ => none
  | .shlReg _ _ => none
  | .sneReg _ _ => none
  | .ldI _ => none
  | .jpV0 _ => none
  | .rnd _ _ => none
  | .ldVxDt _ => none
  | .ldVxKey _ => none
  | .ldDtVx _ => none
  | .ldStVx _ => none
  | .addI _ => none
  | .ldFont _ => none

/-- The engine is neither halted nor waiting for a key, so that the next step fetches (R61). -/
def Ready (s : State) : Prop := s.err = none ∧ s.kw = none

/-- A run is safe when it ends with no error latched; the latch is never cleared, so none was raised on the way (R116). -/
def SafeRun (ts : List Transaction) (s : State) : Prop := (runTransactions ts s).err = none

/-! ## Results -/

/-- What `WriteRF(x, r, f)` leaves in the registers (R79): `r` in V[x] and `f` in VF; for x = 0xF the order of
P_VF_ORDER says which of the two VF holds; every other register as before. -/
def FlagResult (s t : State) (x : Nibble) (r f : Nat) : Prop :=
  ∀ q, (t.readV q).toNat =
    if q = x ∧ (x ≠ 0xF ∨ s.cfg.vfOrder = .flagFirst) then r else if q = 0xF then f else (s.readV q).toNat

/-- The pixel at column `px`, row `py` is under a 1 bit of the `n`-row sprite at I drawn at (V[x], V[y]) (R100, R101). -/
def SpriteCovers (s : State) (x y n : Nibble) (px : Fin 64) (py : Fin 32) : Prop :=
  ∃ r c, r < n.toNat ∧ c < 8 ∧ (s.readByte (s.i.toNat + r)).getLsbD (7 - c) = true ∧
    px.val = ((s.readV x).toNat + c) % 64 ∧ py.val = ((s.readV y).toNat + r) % 32

/-! ## Invariants -/

/-- No step and no transaction leaves pc above 0x10FE; a valid stack entry is the address of a fetched call, at most
0xFFE; while a key wait is pending pc is the address of a fetched FX0A (R17, R21, R65). -/
structure PcInv (s : State) : Prop where
  pc_le : s.pc.toNat ≤ 0x10FE
  call_site : ∀ k (h : k < 16), k < s.sp.val → s.stack[k].toNat ≤ 0xFFE
  wait_pc : s.kw ≠ none → s.pc.toNat ≤ 0xFFE

/-- The state's invariant: memory in canonical form, pc in its range, and no LoadTooLarge in the latch (R17, R38, R117). -/
structure Inv (s : State) : Prop where
  mem_wf : Memory.wf s.cfg.font s.mem
  pc_inv : PcInv s
  latch_kind : ∀ n, s.err ≠ some (.loadTooLarge n)

/-- While a key wait for x is pending, the word at pc is still the FX0A that set it (R26, R65; D15). -/
def WaitsAtKeyInstr (s : State) : Prop :=
  ∀ x, s.kw = some x → s.fetchOk = true ∧ decodeWord s.fetchWord = some (.ldVxKey x)

end Sys2Proof.Machine
end

