-- ==== Sys2Proof/Certificates/Slice0/Obligations.lean ====
section
/-! DEFINITION. The statements for the provers. Each docstring names the rule of spec/ it formalises, or the spec's own
decision and the log entry of the model (notes/assumptions/) it rests on. Wherever a step or an instruction raises, that
it answers a next state with the error latched is the model's form (log 34). -/

open Sys2Proof Sys2Proof.Machine

/-! ## Encoding (30_encoding.md) -/

/-- One word per instruction file, written out from the patterns of R56, decodes to the instruction it stands for. -/
def Obligations.WrittenWordsDecode : Prop :=
  decodeWord 0b0000000011100000 = some .cls ∧
  decodeWord 0b0010001100000000 = some (.call 0x300) ∧
  decodeWord 0b0110101000101011 = some (.ldImm 0xA 0x2B) ∧
  decodeWord 0b1000000100101110 = some (.shlReg 1 2) ∧
  decodeWord 0b1010001100000000 = some (.ldI 0x300) ∧
  decodeWord 0b1101000000010101 = some (.drw 0 1 5) ∧
  decodeWord 0b1110010110100001 = some (.sknp 5) ∧
  decodeWord 0b1111010001100101 = some (.loadRegs 4) ∧
  decodeWord 0b0101000100100001 = none

/-- No two rows of the opcode map select the same word (30_encoding.md section 2). -/
def Obligations.NoTwoRowsSelectOneWord : Prop :=
  ∀ w : Word, ∀ r ∈ opcodeTable, ∀ q ∈ opcodeTable, r.selects w = true → q.selects w = true → r.mnemonic = q.mnemonic

/-- The decoder rejects exactly the words the list of illegal words names (30_encoding.md section 3). -/
def Obligations.DecoderRejectsExactlyTheIllegalWords : Prop :=
  ∀ w : Word, decodeWord w = none ↔ wordWf w = false

/-- Decoding the word of any instruction gives it back, with every operand (30_encoding.md sections 1 and 2). -/
def Obligations.DecodeOfEncode : Prop := ∀ i : Instr, decodeWord (encode i) = some i

/-- A word that decodes is the word of what it decodes to: no bit of a legal word is ignored. -/
def Obligations.EncodeOfDecode : Prop := ∀ (w : Word) (i : Instr), decodeWord w = some i → encode i = w

/-- The byte decoder consumes exactly two bytes, the first one high, and rejects by name. -/
def Obligations.DecoderConsumesTwoBytes : Prop :=
  (∀ (hi lo : Byte) (rest : List Byte) (w : Word), w.toNat = 256 * hi.toNat + lo.toNat →
    (∀ i, decodeWord w = some i → decode (hi :: lo :: rest) = .ok (i, rest)) ∧
    (decodeWord w = none → decode (hi :: lo :: rest) = .error (.unknownOpcode w))) ∧
  decode [] = .error (.truncated 0) ∧ ∀ b, decode [b] = .error (.truncated 1)

/-! ## The step (40_cycle.md, 60_exceptions.md) -/

/-- R62. A fetch succeeds exactly when pc ≤ 0xFFE, at any alignment, and forms the word big-endian; otherwise the step
raises OutOfBounds with access kind FETCH and the value of pc. -/
def Obligations.FetchReadsTwoBytesBigEndian : Prop :=
  ∀ s : State, Ready s →
    (s.fetchOk = true ↔ s.pc.toNat ≤ 0xFFE) ∧
    (s.pc.toNat ≤ 0xFFE → s.fetchWord.toNat =
      256 * (s.readByte s.pc.toNat).toNat + (s.readByte (s.pc.toNat + 1)).toNat) ∧
    (0xFFE < s.pc.toNat → step s = .next { s with err := some (.outOfBounds .fetch s.pc.toNat s.pc) })

/-- When the two bytes at pc decode to an instruction, the step of a running engine is the execute phase of that
instruction in that very state. -/
def Obligations.StepRunsTheDecodedInstruction : Prop :=
  ∀ (s : State) (i : Instr), Ready s → s.pc.toNat ≤ 0xFFE →
    decode [s.readByte s.pc.toNat, s.readByte (s.pc.toNat + 1)] = .ok (i, []) → step s = exec i s

/-- R63. Decode maps the word to the row that selects it, with its fields; a word no row selects raises UnknownOpcode
with the word and pc, and nothing else changes. -/
def Obligations.StepDecodesByTheOpcodeMap : Prop :=
  ∀ (s : State) (w : Word), Ready s → s.pc.toNat ≤ 0xFFE →
    w.toNat = 256 * (s.readByte s.pc.toNat).toNat + (s.readByte (s.pc.toNat + 1)).toNat →
    (∀ r ∈ opcodeTable, w &&& r.mask = r.value → step s = exec (r.build w) s) ∧
    ((∀ r ∈ opcodeTable, w &&& r.mask ≠ r.value) → step s = .next { s with err := some (.unknownOpcode w s.pc) })

/-- A step of a halted engine returns the latched error and changes nothing. Rests on the spec's decision D2 (log 2). -/
def Obligations.HaltedStepReturnsTheLatchedError : Prop :=
  ∀ (s : State) (f : Fault), s.err = some f → step s = .next s ∧ stepTransaction s = (s, some f)

/-- Errors are precise: a step that raises writes the latch and nothing else, and returns what it latched. Rests on the
spec's decision D2 (log 2). -/
def Obligations.ErrorsArePrecise : Prop :=
  ∀ s t : State, step s = .next t → t.err ≠ s.err →
    s.err = none ∧ t = { s with err := t.err } ∧ stepTransaction s = (t, t.err)

/-- In the model's form, every step answers a next state. That a step that raises answers one, with the error latched, and
that a step of a halted engine answers its own state, are the model's DESIGN CHOICE (log 34), no rule of the spec. -/
def Obligations.EveryStepCompletes : Prop := ∀ s : State, ∃ t, step s = .next t

/-- The pending key wait: with no key pressed nothing changes; otherwise the least pressed key is captured, consumed, the
latch is cleared and pc goes on. Nothing is fetched. Rests on the spec's decisions D14 and D15 (logs 14, 15). -/
def Obligations.PendingKeyWaitStep : Prop :=
  ∀ (s : State) (x : Nibble), s.err = none → s.kw = some x →
    ((∀ k, s.keyDown k = false) → step s = .next s) ∧
    (∀ k, s.keyDown k = true → (∀ j, j < k → s.keyDown j = false) →
      ∃ t, step s = .next t ∧ t.kw = none ∧ t.pc = s.pc + 2 ∧
        (∀ q, (t.readV q).toNat = if q = x then k else (s.readV q).toNat) ∧
        (∀ j, t.keyDown j = if j = k then false else s.keyDown j) ∧
        OnlyWrites [.v, .key, .kw, .pc] s t)

/-- A pending wait at its FX0A steps as fetching the FX0A anew would: the latch saves only the fetch. Rests on the spec's
decision D15 (log 15). -/
def Obligations.PendingWaitIsRefetch : Prop :=
  ∀ (s : State) (x : Nibble), s.err = none → s.kw = some x → WaitsAtKeyInstr s →
    ∃ t, step s = .next t ∧ step { s with kw := none } = .next t

/-- While a wait is pending, the word at pc stays the FX0A that set it, under every transaction but Load. Rests on the
spec's decision D15 (log 15). -/
def Obligations.PendingWaitStaysAtItsInstruction : Prop :=
  (∀ s t : State, WaitsAtKeyInstr s → step s = .next t → WaitsAtKeyInstr t) ∧
  (∀ (s : State), WaitsAtKeyInstr s →
    WaitsAtKeyInstr (tick s).1 ∧ (∀ k, WaitsAtKeyInstr (setInput k s)) ∧ WaitsAtKeyInstr (readFrame s).1)

/-- A jump to its own address is a fixed point of the step. -/
def Obligations.JumpToSelfIsAFixedPoint : Prop :=
  ∀ (s : State) (nnn : Addr), Ready s → s.pc.toNat = nnn.toNat → s.pc.toNat ≤ 0xFFE →
    decodeWord s.fetchWord = some (.jp nnn) → step s = .next s

/-! ## Whole-machine rules over all instructions -/

/-- An instruction writes only the components its rule names, or it raises and writes only the latch. -/
def Obligations.InstructionsWriteOnlyTheirComponents : Prop :=
  ∀ (i : Instr) (s t : State), exec i s = .next t →
    OnlyWrites (writeSet i) s t ∨ (execError i s ≠ none ∧ OnlyWrites [.err] s t)

/-- A general register that is not named as a destination keeps its value; VF is one only where the instruction defines a
flag or names it. -/
def Obligations.OtherRegistersAreUnchanged : Prop :=
  ∀ (i : Instr) (s t : State), exec i s = .next t → ∀ r, r ∉ destRegs i → t.readV r = s.readV r

/-- Exactly the instructions and conditions of the error table raise, each with its record; all others raise nothing. -/
def Obligations.InstructionsRaiseByTheErrorTable : Prop :=
  ∀ (i : Instr) (s : State),
    (∀ f, execError i s = some f → exec i s = .next { s with err := some f }) ∧
    (execError i s = none → ∃ t, exec i s = .next t ∧ t.err = s.err)

/-- At most one value of RAND is drawn per step, and only by CXNN. The counter of draws is the model's own (log 32). -/
def Obligations.OnlyRndDraws : Prop :=
  ∀ (i : Instr) (s t : State), exec i s = .next t →
    t.draws = s.draws + (match i with | .rnd _ _ => 1 | _ => 0)

/-- A step changes DT only by executing FX15 and ST only by executing FX18: no step counts a timer down. -/
def Obligations.StepNeverTicks : Prop :=
  ∀ s t : State, step s = .next t →
    (t.dt ≠ s.dt → ∃ x, decodeWord s.fetchWord = some (.ldDtVx x) ∧ t.dt = s.readV x) ∧
    (t.st ≠ s.st → ∃ x, decodeWord s.fetchWord = some (.ldStVx x) ∧ t.st = s.readV x)

/-- No instruction reads the dirty flag or ST: changing either changes nothing else of what an instruction does. -/
def Obligations.DirtyAndSoundTimerAreNotRead : Prop :=
  ∀ (i : Instr) (s t : State) (d : Bool) (b : Byte), exec i s = .next t →
    ∃ d' b', exec i { s with dirty := d, st := b } = .next { t with dirty := d', st := b' }

/-! ## Control transfer (41_control_flow.md) -/

/-- R71, R73. 1NNN sets pc to NNN; BNNN sets it to V0 + NNN, not masked to 12 bits, whatever the X field is. With the
words of the two. -/
def Obligations.JumpsSetPc : Prop :=
  ∀ (s : State) (nnn : Addr),
    decodeWord (0x1#4 ++ nnn) = some (.jp nnn) ∧ decodeWord (0xB#4 ++ nnn) = some (.jpV0 nnn) ∧
    (∃ t, exec (.jp nnn) s = .next t ∧ t.pc.toNat = nnn.toNat ∧ OnlyWrites [.pc] s t) ∧
    (∃ t, exec (.jpV0 nnn) s = .next t ∧ t.pc.toNat = (s.readV 0).toNat + nnn.toNat ∧ OnlyWrites [.pc] s t)

/-- R74, R75, R76, R77. The skips compare 8-bit values and advance pc by 4 or by 2. With their words: the last digit of
the register forms must be 0. -/
def Obligations.SkipsAdvanceByFourOrTwo : Prop :=
  ∀ (s : State) (x y : Nibble) (nn : Byte),
    decodeWord (0x3#4 ++ x ++ nn) = some (.seImm x nn) ∧ decodeWord (0x4#4 ++ x ++ nn) = some (.sneImm x nn) ∧
    (∀ n : Nibble, decodeWord (0x5#4 ++ x ++ y ++ n) = if n = 0 then some (.seReg x y) else none) ∧
    (∀ n : Nibble, decodeWord (0x9#4 ++ x ++ y ++ n) = if n = 0 then some (.sneReg x y) else none) ∧
    (∃ t, exec (.seImm x nn) s = .next t ∧
      t.pc = s.pc + (if (s.readV x).toNat = nn.toNat then 4 else 2) ∧ OnlyWrites [.pc] s t) ∧
    (∃ t, exec (.sneImm x nn) s = .next t ∧
      t.pc = s.pc + (if (s.readV x).toNat = nn.toNat then 2 else 4) ∧ OnlyWrites [.pc] s t) ∧
    (∃ t, exec (.seReg x y) s = .next t ∧
      t.pc = s.pc + (if (s.readV x).toNat = (s.readV y).toNat then 4 else 2) ∧ OnlyWrites [.pc] s t) ∧
    (∃ t, exec (.sneReg x y) s = .next t ∧
      t.pc = s.pc + (if (s.readV x).toNat = (s.readV y).toNat then 2 else 4) ∧ OnlyWrites [.pc] s t)

/-- 2NNN pushes its own address and jumps; the call at depth 17 raises and writes nothing. The pushed value is the spec's
decision D7 (log 7). -/
def Obligations.CallPushesTheCallSite : Prop :=
  ∀ (s : State) (nnn : Addr),
    (s.sp.val < 16 → ∃ t, exec (.call nnn) s = .next t ∧ t.sp.val = s.sp.val + 1 ∧ t.pc.toNat = nnn.toNat ∧
      (∀ k (h : k < 16), t.stack[k] = if k = s.sp.val then s.pc else s.stack[k]) ∧
      OnlyWrites [.stack, .sp, .pc] s t) ∧
    (s.sp.val = 16 → exec (.call nnn) s =
      .next { s with err := some (.outOfBounds .stackOverflow s.pc.toNat s.pc) })

/-- 00EE pops: pc is the popped call site plus 2 and the entry keeps its value; an empty stack raises and nothing is
written. The value read is the spec's decision D7 (log 7). -/
def Obligations.ReturnPopsTheCallSite : Prop :=
  ∀ s : State,
    (∀ k (h : k < 16), s.sp.val = k + 1 →
      ∃ t, exec .ret s = .next t ∧ t.sp.val = k ∧ t.pc = s.stack[k] + 2 ∧ OnlyWrites [.sp, .pc] s t) ∧
    (s.sp.val = 0 → exec .ret s = .next { s with err := some (.outOfBounds .stackUnderflow s.pc.toNat s.pc) })

/-- A return after a call, with the stack as the call left it, goes to the call site plus 2 at the caller's depth. -/
def Obligations.ReturnUndoesCall : Prop :=
  ∀ (s t u : State) (nnn : Addr), s.sp.val < 16 → exec (.call nnn) s = .next t → u.sp = t.sp → u.stack = t.stack →
    ∃ w, exec .ret u = .next w ∧ w.pc = s.pc + 2 ∧ w.sp = s.sp

/-! ## Register arithmetic and logic (42_alu.md) -/

/-- R81, R82. 6XNN loads NN; 7XNN adds NN mod 256 and writes no carry. With the words of the two. -/
def Obligations.ImmediateLoadAndAdd : Prop :=
  ∀ (s : State) (x : Nibble) (nn : Byte),
    decodeWord (0x6#4 ++ x ++ nn) = some (.ldImm x nn) ∧ decodeWord (0x7#4 ++ x ++ nn) = some (.addImm x nn) ∧
    (∃ t, exec (.ldImm x nn) s = .next t ∧ t.pc = s.pc + 2 ∧
      (∀ q, (t.readV q).toNat = if q = x then nn.toNat else (s.readV q).toNat) ∧ OnlyWrites [.v, .pc] s t) ∧
    (∃ t, exec (.addImm x nn) s = .next t ∧ t.pc = s.pc + 2 ∧
      (∀ q, (t.readV q).toNat = if q = x then ((s.readV x).toNat + nn.toNat) % 256 else (s.readV q).toNat) ∧
      OnlyWrites [.v, .pc] s t)

/-- R83, R84, R85, R86. Copy, OR, AND and XOR, bit by bit; VF changes only as the destination. With their words. -/
def Obligations.CopyAndLogicBitByBit : Prop :=
  ∀ (s : State) (x y : Nibble),
    decodeWord (0x8#4 ++ x ++ y ++ 0x0#4) = some (.ldReg x y) ∧
    decodeWord (0x8#4 ++ x ++ y ++ 0x1#4) = some (.orReg x y) ∧
    decodeWord (0x8#4 ++ x ++ y ++ 0x2#4) = some (.andReg x y) ∧
    decodeWord (0x8#4 ++ x ++ y ++ 0x3#4) = some (.xorReg x y) ∧
    (∃ t, exec (.ldReg x y) s = .next t ∧ t.pc = s.pc + 2 ∧ (∀ q ≠ x, t.readV q = s.readV q) ∧
      (∀ b < 8, (t.readV x).getLsbD b = (s.readV y).getLsbD b) ∧ OnlyWrites [.v, .pc] s t) ∧
    (∃ t, exec (.orReg x y) s = .next t ∧ t.pc = s.pc + 2 ∧ (∀ q ≠ x, t.readV q = s.readV q) ∧
      (∀ b < 8, (t.readV x).getLsbD b = ((s.readV x).getLsbD b || (s.readV y).getLsbD b)) ∧
      OnlyWrites [.v, .pc] s t) ∧
    (∃ t, exec (.andReg x y) s = .next t ∧ t.pc = s.pc + 2 ∧ (∀ q ≠ x, t.readV q = s.readV q) ∧
      (∀ b < 8, (t.readV x).getLsbD b = ((s.readV x).getLsbD b && (s.readV y).getLsbD b)) ∧
      OnlyWrites [.v, .pc] s t) ∧
    (∃ t, exec (.xorReg x y) s = .next t ∧ t.pc = s.pc + 2 ∧ (∀ q ≠ x, t.readV q = s.readV q) ∧
      (∀ b < 8, (t.readV x).getLsbD b = ((s.readV x).getLsbD b ^^ (s.readV y).getLsbD b)) ∧
      OnlyWrites [.v, .pc] s t)

/-- 8XY4: the sum mod 256 in V[x] and the carry in VF. For x = 0xF the order of the two writes is the spec's open
parameter P_VF_ORDER, decision D5 (log 5), and operands are read first, D4 (log 4). -/
def Obligations.AddWritesSumAndCarry : Prop :=
  ∀ (s : State) (x y : Nibble), ∃ t, exec (.addReg x y) s = .next t ∧ t.pc = s.pc + 2 ∧
    FlagResult s t x (((s.readV x).toNat + (s.readV y).toNat) % 256)
      (if 255 < (s.readV x).toNat + (s.readV y).toNat then 1 else 0) ∧
    OnlyWrites [.v, .pc] s t

/-- 8XY5 and 8XY7: the difference mod 256 in V[x] and not-borrow in VF; for x = 0xF decision D5 (log 5), operands read
first, D4 (log 4). -/
def Obligations.SubtractionsWriteDifferenceAndNotBorrow : Prop :=
  ∀ (s : State) (x y : Nibble),
    (∃ t, exec (.subReg x y) s = .next t ∧ t.pc = s.pc + 2 ∧
      FlagResult s t x ((256 + (s.readV x).toNat - (s.readV y).toNat) % 256)
        (if (s.readV x).toNat < (s.readV y).toNat then 0 else 1) ∧
      OnlyWrites [.v, .pc] s t) ∧
    (∃ t, exec (.subnReg x y) s = .next t ∧ t.pc = s.pc + 2 ∧
      FlagResult s t x ((256 + (s.readV y).toNat - (s.readV x).toNat) % 256)
        (if (s.readV y).toNat < (s.readV x).toNat then 0 else 1) ∧
      OnlyWrites [.v, .pc] s t)

/-- 8XY6 and 8XYE in each P_SHIFT_MODE: the shifted source in V[x] and the bit shifted out in VF. The source is the
spec's open parameter P_SHIFT_MODE, decision D6 (log 6); for x = 0xF decision D5 (log 5). -/
def Obligations.ShiftsWriteResultAndBitShiftedOut : Prop :=
  ∀ (s : State) (x y : Nibble),
    (∃ (t : State) (v : Nat), exec (.shrReg x y) s = .next t ∧ t.pc = s.pc + 2 ∧
      v = (s.readV (if s.cfg.shiftMode = .vx then x else y)).toNat ∧
      FlagResult s t x (v / 2) (v % 2) ∧ OnlyWrites [.v, .pc] s t) ∧
    (∃ (t : State) (v : Nat), exec (.shlReg x y) s = .next t ∧ t.pc = s.pc + 2 ∧
      v = (s.readV (if s.cfg.shiftMode = .vy then y else x)).toNat ∧
      FlagResult s t x (v * 2 % 256) (v / 128) ∧ OnlyWrites [.v, .pc] s t)

/-- CXNN: V[x] is the value drawn AND NN, for whichever value is drawn; exactly one is drawn, even for NN = 0. The draw is
a free value (log 32). -/
def Obligations.RandomByteIsMasked : Prop :=
  ∀ (s : State) (x : Nibble) (nn : Byte),
    (exec (.rnd x nn) s = .next (s.rndWith (Config.freeRand s.draws) x nn)) ∧
    ∀ r : Byte, (s.rndWith r x nn).pc = s.pc + 2 ∧ (s.rndWith r x nn).draws = s.draws + 1 ∧
      (∀ b < 8, ((s.rndWith r x nn).readV x).getLsbD b = (r.getLsbD b && nn.getLsbD b)) ∧
      (∀ q ≠ x, (s.rndWith r x nn).readV q = s.readV q) ∧
      OnlyWrites [.v, .draws, .pc] s (s.rndWith r x nn)

/-! ## Index register and memory (43_index_memory.md, 20_memory.md) -/

/-- R94. ANNN loads I with NNN; with its word. -/
def Obligations.LoadIndexRegister : Prop :=
  ∀ (s : State) (nnn : Addr), decodeWord (0xA#4 ++ nnn) = some (.ldI nnn) ∧ ∃ t, exec (.ldI nnn) s = .next t ∧ t.i.toNat = nnn.toNat ∧ t.pc = s.pc + 2 ∧
    OnlyWrites [.i, .pc] s t

/-- FX1E adds mod 65536 and writes no flag (the spec's decision D16, log 16); FX29 uses the whole value of V[x]
(decision D18, log 18). -/
def Obligations.AddToIndexAndFontAddress : Prop :=
  ∀ (s : State) (x : Nibble),
    (∃ t, exec (.addI x) s = .next t ∧ t.i.toNat = (s.i.toNat + (s.readV x).toNat) % 65536 ∧ t.pc = s.pc + 2 ∧
      OnlyWrites [.i, .pc] s t) ∧
    (∃ t, exec (.ldFont x) s = .next t ∧ t.i.toNat = 0x050 + 5 * (s.readV x).toNat ∧ t.pc = s.pc + 2 ∧
      OnlyWrites [.i, .pc] s t)

/-- R97. FX33 stores the hundreds, tens and units digits of V[x] at I, I+1, I+2 and changes no other byte, or raises
OutOfBounds and writes nothing. With its word. -/
def Obligations.BcdStoresThreeDigits : Prop :=
  ∀ (s : State) (x : Nibble), Memory.wf s.cfg.font s.mem →
    decodeWord (0xF#4 ++ x ++ 0x33#8) = some (.ldBcd x) ∧
    (s.i.toNat + 2 < 4096 → ∃ t, exec (.ldBcd x) s = .next t ∧
      (t.readByte s.i.toNat).toNat = (s.readV x).toNat / 100 ∧
      (t.readByte (s.i.toNat + 1)).toNat = (s.readV x).toNat / 10 % 10 ∧
      (t.readByte (s.i.toNat + 2)).toNat = (s.readV x).toNat % 10 ∧
      (∀ a, a < s.i.toNat ∨ s.i.toNat + 3 ≤ a → t.readByte a = s.readByte a) ∧
      t.pc = s.pc + 2 ∧ OnlyWrites [.mem, .pc] s t) ∧
    (s.i.toNat + 2 ≥ 4096 → exec (.ldBcd x) s =
      .next { s with err := some (.outOfBounds .memory (max s.i.toNat 4096) s.pc) })

/-- R98. FX55 stores V0..Vx at I..I+x and changes no other byte, or raises OutOfBounds and writes nothing. With its
word. -/
def Obligations.StoreRegisterBlock : Prop :=
  ∀ (s : State) (x : Nibble), Memory.wf s.cfg.font s.mem →
    decodeWord (0xF#4 ++ x ++ 0x55#8) = some (.storeRegs x) ∧
    (s.i.toNat + x.toNat < 4096 → ∃ t, exec (.storeRegs x) s = .next t ∧
      (∀ k : Nibble, k.toNat ≤ x.toNat → t.readByte (s.i.toNat + k.toNat) = s.readV k) ∧
      (∀ a, a < s.i.toNat ∨ s.i.toNat + x.toNat < a → t.readByte a = s.readByte a) ∧
      t.pc = s.pc + 2 ∧ OnlyWrites [.mem, .pc] s t) ∧
    (s.i.toNat + x.toNat ≥ 4096 → exec (.storeRegs x) s =
      .next { s with err := some (.outOfBounds .memory (max s.i.toNat 4096) s.pc) })

/-- R99. FX65 loads V0..Vx from I..I+x and changes no other register, or raises OutOfBounds and writes no register; after
FX55 with the same I and x it restores V0..Vx. With its word. -/
def Obligations.LoadRegisterBlock : Prop :=
  ∀ (s : State) (x : Nibble), decodeWord (0xF#4 ++ x ++ 0x65#8) = some (.loadRegs x) ∧
    (s.i.toNat + x.toNat < 4096 → ∃ t, exec (.loadRegs x) s = .next t ∧
      (∀ k : Nibble, t.readV k = if k.toNat ≤ x.toNat then s.readByte (s.i.toNat + k.toNat) else s.readV k) ∧
      t.pc = s.pc + 2 ∧ OnlyWrites [.v, .pc] s t) ∧
    (s.i.toNat + x.toNat ≥ 4096 → exec (.loadRegs x) s =
      .next { s with err := some (.outOfBounds .memory (max s.i.toNat 4096) s.pc) }) ∧
    (Memory.wf s.cfg.font s.mem → s.i.toNat + x.toNat < 4096 → ∀ t u : State, exec (.storeRegs x) s = .next t →
      u.i = s.i → (∀ a, u.readByte a = t.readByte a) →
      ∃ w, exec (.loadRegs x) u = .next w ∧ ∀ k : Nibble, k.toNat ≤ x.toNat → w.readV k = s.readV k)

/-- A stored register pair is the word a later fetch there reads, with no fence. Rests on the spec's decision D20
(log 20). -/
def Obligations.StoredBytesAreFetched : Prop :=
  ∀ (s t u : State) (x k j : Nibble), Memory.wf s.cfg.font s.mem → s.i.toNat + x.toNat < 4096 →
    exec (.storeRegs x) s = .next t → j.toNat = k.toNat + 1 → j.toNat ≤ x.toNat →
    (∀ a, u.readByte a = t.readByte a) → u.pc.toNat = s.i.toNat + k.toNat →
    u.fetchWord.toNat = 256 * (s.readV k).toNat + (s.readV j).toNat

/-- Two canonical memories that read the same at every address are equal data. -/
def Obligations.CanonicalMemoriesAreExtensional : Prop :=
  ∀ (font : Font) (m n : Memory), Memory.wf font m → Memory.wf font n →
    (∀ a, Memory.read font m a = Memory.read font n a) → m = n

/-! ## Display (44_display.md) -/

/-- 00E0 clears every pixel and sets Dirty, also when the buffer is clear. That it sets Dirty is the spec's decision D11
(log 11). -/
def Obligations.ClearDisplay : Prop :=
  ∀ s : State, ∃ t, exec .cls s = .next t ∧ (∀ x y, t.pix.at x y = false) ∧ t.dirty = true ∧ t.pc = s.pc + 2 ∧
    OnlyWrites [.pix, .dirty, .pc] s t

/-- DXYN toggles exactly the pixels under a 1 bit of the sprite, wrapped on both axes, and VF says whether one of them
was set. n = 0 draws nothing (decision D12, log 12); bit 7 is the leftmost column (decision D10, log 10). -/
def Obligations.DrawXorsTheSprite : Prop :=
  ∀ (s : State) (x y n : Nibble), (n.toNat = 0 ∨ s.i.toNat + n.toNat ≤ 4096) →
    ∃ t, exec (.drw x y n) s = .next t ∧
      (∀ px py, SpriteCovers s x y n px py → t.pix.at px py = !s.pix.at px py) ∧
      (∀ px py, ¬ SpriteCovers s x y n px py → t.pix.at px py = s.pix.at px py) ∧
      ((∃ px py, SpriteCovers s x y n px py ∧ s.pix.at px py = true) → t.readV 0xF = 1) ∧
      ((∀ px py, SpriteCovers s x y n px py → s.pix.at px py = false) → t.readV 0xF = 0) ∧
      (∀ q ≠ 0xF, t.readV q = s.readV q) ∧ t.dirty = true ∧ t.pc = s.pc + 2 ∧
      OnlyWrites [.v, .pix, .dirty, .pc] s t

/-- DXYN whose sprite passes address 4095 raises and writes no pixel, VF or Dirty. -/
def Obligations.DrawOutsideMemoryRaises : Prop :=
  ∀ (s : State) (x y n : Nibble), 0 < n.toNat → 4096 ≤ s.i.toNat + n.toNat - 1 →
    exec (.drw x y n) s = .next { s with err := some (.outOfBounds .memory (max s.i.toNat 4096) s.pc) }

/-- Drawing the same sprite twice at the same place restores every pixel; the second draw reports a collision exactly when
the sprite has a 1 bit over a pixel that was clear before the first. Bit order: decision D10 (log 10); the collision is
the pseudocode's (log 37). -/
def Obligations.DrawingTwiceRestoresTheDisplay : Prop :=
  ∀ (s t u : State) (x y n : Nibble), (n.toNat = 0 ∨ s.i.toNat + n.toNat ≤ 4096) → exec (.drw x y n) s = .next t →
    u.pix = t.pix → u.i = s.i → (∀ a, u.readByte a = s.readByte a) → u.readV x = s.readV x → u.readV y = s.readV y →
    ∃ w, exec (.drw x y n) u = .next w ∧ (∀ px py, w.pix.at px py = s.pix.at px py) ∧
      (w.readV 0xF = 1 ↔ ∃ px py, SpriteCovers s x y n px py ∧ s.pix.at px py = false)

/-! ## Keys and timers (45_keys_timers.md, 60_exceptions.md) -/

/-- EX9E and EXA1: the skip, and the key consumed when it was pressed; V[x] ≥ 16 raises OutOfBounds KEY_INDEX and nothing
is written. The check of the index is the spec's decision D13 (log 13). -/
def Obligations.KeySkipsConsumeThePressedKey : Prop :=
  ∀ (s : State) (x : Nibble) (k : Nat), (s.readV x).toNat = k →
    (k < 16 → ∃ t, exec (.skp x) s = .next t ∧ t.pc = s.pc + (if s.keyDown k = true then 4 else 2) ∧
      (∀ j, t.keyDown j = if j = k then false else s.keyDown j) ∧ OnlyWrites [.key, .pc] s t) ∧
    (k < 16 → ∃ t, exec (.sknp x) s = .next t ∧ t.pc = s.pc + (if s.keyDown k = true then 2 else 4) ∧
      (∀ j, t.keyDown j = if j = k then false else s.keyDown j) ∧ OnlyWrites [.key, .pc] s t) ∧
    (16 ≤ k → exec (.skp x) s = .next { s with err := some (.outOfBounds .keyIndex k s.pc) } ∧
      exec (.sknp x) s = .next { s with err := some (.outOfBounds .keyIndex k s.pc) })

/-- FX0A captures the least pressed key (decision D14, log 14), or latches the wait and leaves pc (decision D15, log 15). -/
def Obligations.KeyWaitCapturesOrLatches : Prop :=
  ∀ (s : State) (x : Nibble),
    (∀ k, s.keyDown k = true → (∀ j, j < k → s.keyDown j = false) →
      ∃ t, exec (.ldVxKey x) s = .next t ∧ t.pc = s.pc + 2 ∧
        (∀ q, (t.readV q).toNat = if q = x then k else (s.readV q).toNat) ∧
        (∀ j, t.keyDown j = if j = k then false else s.keyDown j) ∧ OnlyWrites [.v, .key, .pc] s t) ∧
    ((∀ k, s.keyDown k = false) →
      ∃ t, exec (.ldVxKey x) s = .next t ∧ t.kw = some x ∧ OnlyWrites [.kw] s t)

/-- R109, R110. FX07 reads DT into V[x]; FX15 writes DT from V[x]; and FX18 writes ST from V[x]. With their words. -/
def Obligations.TimerAccess : Prop :=
  ∀ (s : State) (x : Nibble),
    decodeWord (0xF#4 ++ x ++ 0x07#8) = some (.ldVxDt x) ∧ decodeWord (0xF#4 ++ x ++ 0x15#8) = some (.ldDtVx x) ∧
    decodeWord (0xF#4 ++ x ++ 0x18#8) = some (.ldStVx x) ∧
    (∃ t, exec (.ldVxDt x) s = .next t ∧ (∀ q, t.readV q = if q = x then s.dt else s.readV q) ∧ t.pc = s.pc + 2 ∧
      OnlyWrites [.v, .pc] s t) ∧
    (∃ t, exec (.ldDtVx x) s = .next t ∧ t.dt = s.readV x ∧ t.pc = s.pc + 2 ∧ OnlyWrites [.dt, .pc] s t) ∧
    (∃ t, exec (.ldStVx x) s = .next t ∧ t.st = s.readV x ∧ t.pc = s.pc + 2 ∧ OnlyWrites [.st, .pc] s t)

/-- Tick takes each nonzero timer down by 1, leaves a zero one at zero, and reports beep_off exactly when ST was 1. It
works the same halted or waiting (the spec's decision D23, log 23). -/
def Obligations.TickCountsDownAndReportsTheEdge : Prop :=
  ∀ s : State, (tick s).1.dt.toNat = s.dt.toNat - 1 ∧ (tick s).1.st.toNat = s.st.toNat - 1 ∧
    ((tick s).2 = true ↔ s.st.toNat = 1) ∧ OnlyWrites [.dt, .st] s (tick s).1

/-! ## Host transactions (10_state.md, 70_reset_and_hazards.md) -/

/-- R31. SetInput replaces all 16 key entries and changes no other state. -/
def Obligations.SetInputReplacesEveryKey : Prop :=
  ∀ (s : State) (k : Keys), (∀ j (h : j < 16), (setInput k s).keyDown j = k[j]) ∧ OnlyWrites [.key] s (setInput k s)

/-- ReadFrame returns the pixels as they stand, clears Dirty and changes nothing else; a second one returns the same frame.
The frame's representation is the spec's decision D26 (log 26). -/
def Obligations.ReadFrameClearsDirtyOnly : Prop :=
  ∀ s : State, (∀ x y, (readFrame s).2.at x y = s.pix.at x y) ∧ (readFrame s).1.dirty = false ∧
    OnlyWrites [.dirty] s (readFrame s).1 ∧ (readFrame (readFrame s).1).2 = (readFrame s).2

/-- Load copies an image of at most 3584 bytes to 0x200 and changes nothing else; a longer image is LoadTooLarge, and
nothing is written. That Load changes no other state is the spec's decision D24 (log 24). -/
def Obligations.LoadCopiesTheImageOrRefuses : Prop :=
  ∀ (s : State) (image : List Byte), Memory.wf s.cfg.font s.mem →
    (image.length ≤ 3584 → (load image s).2 = none ∧
      (∀ k (h : k < image.length), (load image s).1.readByte (0x200 + k) = image[k]) ∧
      (∀ a, a < 0x200 ∨ 0x200 + image.length ≤ a → (load image s).1.readByte a = s.readByte a) ∧
      OnlyWrites [.mem] s (load image s).1) ∧
    (3584 < image.length → load image s = (s, some (.loadTooLarge image.length)))

/-- No transaction clears the error latch, over any run. Rests on the spec's decision D2 (log 2). -/
def Obligations.NoTransactionClearsAnError : Prop :=
  ∀ (ts : List Transaction) (s : State) (f : Fault), s.err = some f → (runTransactions ts s).err = some f

/-- The parameters are fixed for the life of an instance, and the state a run reaches has those it started with. That they
stand in the state is the model's choice (log 33). -/
def Obligations.ParametersNeverChange : Prop :=
  ∀ (ts : List Transaction) (s : State), (runTransactions ts s).cfg = s.cfg

/-! ## Reset and invariants (10_state.md, 70_reset_and_hazards.md) -/

/-- The state at creation, for any parameters. The zero of I, DT, ST, Dirty, Key, KW, ERR and the stack entries is the
spec's decision D8 (log 8). -/
def Obligations.StateAtCreation : Prop :=
  ∀ cfg : Config,
    (∀ a, (State.create cfg).readByte a = if h : 0x050 ≤ a ∧ a < 0x0A0 then cfg.font[a - 0x050]'(by omega) else 0) ∧
    (∀ x, (State.create cfg).readV x = 0) ∧ (State.create cfg).i = 0 ∧ (State.create cfg).pc = 0x200 ∧
    (∀ k (h : k < 16), (State.create cfg).stack[k] = 0) ∧ (State.create cfg).sp = 0 ∧
    (State.create cfg).dt = 0 ∧ (State.create cfg).st = 0 ∧ (∀ x y, (State.create cfg).pix.at x y = false) ∧
    (State.create cfg).dirty = false ∧ (∀ k, (State.create cfg).keyDown k = false) ∧
    (State.create cfg).kw = none ∧ (State.create cfg).err = none

/-- A step before any Load fetches the zero word at 0x200 and raises UnknownOpcode; a program comes only from Load
(log 36). -/
def Obligations.StepBeforeLoadRaisesUnknownOpcode : Prop :=
  step State.reset = .next { State.reset with err := some (.unknownOpcode 0x0000 0x200) }

/-- The invariant holds at creation, for any parameters. -/
def Obligations.InvariantAtCreation : Prop := ∀ cfg : Config, Inv (State.create cfg)

/-- Every step keeps the invariant: memory stays canonical, pc stays at most 0x10FE, every valid stack entry is at most
0xFFE, a pending wait has pc at most 0xFFE, and LoadTooLarge is never latched. -/
def Obligations.StepKeepsTheInvariant : Prop := ∀ s t : State, Inv s → step s = .next t → Inv t

/-- Every host transaction keeps the invariant, so every run does, in whatever order the host issues them. -/
def Obligations.RunsKeepTheInvariant : Prop :=
  ∀ (ts : List Transaction) (s : State), Inv s → Inv (runTransactions ts s)
end

