-- ==== Sys2Proof/Laws/Decode.lean ====
section
/-! SUPPORT. What the decoder answers, in terms of the rows of the opcode map. -/

namespace Sys2Proof

theorem OpRow.selects_iff (r : OpRow) (w : Word) : r.selects w = true ↔ w &&& r.mask = r.value := by
  simp [OpRow.selects]

/-- A decoded instruction comes from a row of the map that selects the word. -/
theorem decodeWord_row {w : Word} {i : Instr} (h : decodeWord w = some i) :
    ∃ r ∈ opcodeTable, r.selects w = true ∧ r.build w = i := by
  obtain ⟨r, hr, hb⟩ := Option.map_eq_some_iff.mp h
  exact ⟨r, List.mem_of_find?_eq_some hr, List.find?_some (p := fun q : OpRow => q.selects w) hr, hb⟩

/-- A word is rejected exactly when no row of the map selects it. -/
theorem decodeWord_eq_none_iff (w : Word) : decodeWord w = none ↔ ∀ r ∈ opcodeTable, r.selects w = false := by
  simp [decodeWord]

/-- Two rows that select one word agree on the bits both masks fix. -/
theorem OpRow.selects_compatible {r q : OpRow} {w : Word} (hr : r.selects w = true) (hq : q.selects w = true) :
    r.value &&& q.mask = q.value &&& r.mask := by
  rw [OpRow.selects_iff] at hr hq
  rw [← hr, ← hq, BitVec.and_assoc, BitVec.and_assoc, BitVec.and_comm r.mask]

end Sys2Proof
end

