-- ==== Sys2Proof/Laws/State.lean ====
section
/-! SUPPORT. One lemma per field per update of the state, true by `rfl`, so that no later proof unfolds a record update;
and what each update does to the three reads `readV`, `readByte` and `keyDown` it does not concern. -/

namespace Sys2Proof.Machine

variable (s : State)

/-! ## setI -/

@[simp] theorem State.setI_mem (w : Word) : (s.setI w).mem = s.mem := rfl
@[simp] theorem State.setI_v (w : Word) : (s.setI w).v = s.v := rfl
@[simp] theorem State.setI_i (w : Word) : (s.setI w).i = w := rfl
@[simp] theorem State.setI_pc (w : Word) : (s.setI w).pc = s.pc := rfl
@[simp] theorem State.setI_stack (w : Word) : (s.setI w).stack = s.stack := rfl
@[simp] theorem State.setI_sp (w : Word) : (s.setI w).sp = s.sp := rfl
@[simp] theorem State.setI_dt (w : Word) : (s.setI w).dt = s.dt := rfl
@[simp] theorem State.setI_st (w : Word) : (s.setI w).st = s.st := rfl
@[simp] theorem State.setI_pix (w : Word) : (s.setI w).pix = s.pix := rfl
@[simp] theorem State.setI_dirty (w : Word) : (s.setI w).dirty = s.dirty := rfl
@[simp] theorem State.setI_key (w : Word) : (s.setI w).key = s.key := rfl
@[simp] theorem State.setI_kw (w : Word) : (s.setI w).kw = s.kw := rfl
@[simp] theorem State.setI_err (w : Word) : (s.setI w).err = s.err := rfl
@[simp] theorem State.setI_draws (w : Word) : (s.setI w).draws = s.draws := rfl
@[simp] theorem State.setI_cfg (w : Word) : (s.setI w).cfg = s.cfg := rfl
@[simp] theorem State.setI_readV (w : Word) (q : Nibble) : (s.setI w).readV q = s.readV q := rfl
@[simp] theorem State.setI_readByte (w : Word) (p : Nat) : (s.setI w).readByte p = s.readByte p := rfl
@[simp] theorem State.setI_keyDown (w : Word) (j : Nat) : (s.setI w).keyDown j = s.keyDown j := rfl

/-! ## setPc -/

@[simp] theorem State.setPc_mem (w : Word) : (s.setPc w).mem = s.mem := rfl
@[simp] theorem State.setPc_v (w : Word) : (s.setPc w).v = s.v := rfl
@[simp] theorem State.setPc_i (w : Word) : (s.setPc w).i = s.i := rfl
@[simp] theorem State.setPc_pc (w : Word) : (s.setPc w).pc = w := rfl
@[simp] theorem State.setPc_stack (w : Word) : (s.setPc w).stack = s.stack := rfl
@[simp] theorem State.setPc_sp (w : Word) : (s.setPc w).sp = s.sp := rfl
@[simp] theorem State.setPc_dt (w : Word) : (s.setPc w).dt = s.dt := rfl
@[simp] theorem State.setPc_st (w : Word) : (s.setPc w).st = s.st := rfl
@[simp] theorem State.setPc_pix (w : Word) : (s.setPc w).pix = s.pix := rfl
@[simp] theorem State.setPc_dirty (w : Word) : (s.setPc w).dirty = s.dirty := rfl
@[simp] theorem State.setPc_key (w : Word) : (s.setPc w).key = s.key := rfl
@[simp] theorem State.setPc_kw (w : Word) : (s.setPc w).kw = s.kw := rfl
@[simp] theorem State.setPc_err (w : Word) : (s.setPc w).err = s.err := rfl
@[simp] theorem State.setPc_draws (w : Word) : (s.setPc w).draws = s.draws := rfl
@[simp] theorem State.setPc_cfg (w : Word) : (s.setPc w).cfg = s.cfg := rfl
@[simp] theorem State.setPc_readV (w : Word) (q : Nibble) : (s.setPc w).readV q = s.readV q := rfl
@[simp] theorem State.setPc_readByte (w : Word) (p : Nat) : (s.setPc w).readByte p = s.readByte p := rfl
@[simp] theorem State.setPc_keyDown (w : Word) (j : Nat) : (s.setPc w).keyDown j = s.keyDown j := rfl

/-! ## setDt -/

@[simp] theorem State.setDt_mem (b : Byte) : (s.setDt b).mem = s.mem := rfl
@[simp] theorem State.setDt_v (b : Byte) : (s.setDt b).v = s.v := rfl
@[simp] theorem State.setDt_i (b : Byte) : (s.setDt b).i = s.i := rfl
@[simp] theorem State.setDt_pc (b : Byte) : (s.setDt b).pc = s.pc := rfl
@[simp] theorem State.setDt_stack (b : Byte) : (s.setDt b).stack = s.stack := rfl
@[simp] theorem State.setDt_sp (b : Byte) : (s.setDt b).sp = s.sp := rfl
@[simp] theorem State.setDt_dt (b : Byte) : (s.setDt b).dt = b := rfl
@[simp] theorem State.setDt_st (b : Byte) : (s.setDt b).st = s.st := rfl
@[simp] theorem State.setDt_pix (b : Byte) : (s.setDt b).pix = s.pix := rfl
@[simp] theorem State.setDt_dirty (b : Byte) : (s.setDt b).dirty = s.dirty := rfl
@[simp] theorem State.setDt_key (b : Byte) : (s.setDt b).key = s.key := rfl
@[simp] theorem State.setDt_kw (b : Byte) : (s.setDt b).kw = s.kw := rfl
@[simp] theorem State.setDt_err (b : Byte) : (s.setDt b).err = s.err := rfl
@[simp] theorem State.setDt_draws (b : Byte) : (s.setDt b).draws = s.draws := rfl
@[simp] theorem State.setDt_cfg (b : Byte) : (s.setDt b).cfg = s.cfg := rfl
@[simp] theorem State.setDt_readV (b : Byte) (q : Nibble) : (s.setDt b).readV q = s.readV q := rfl
@[simp] theorem State.setDt_readByte (b : Byte) (p : Nat) : (s.setDt b).readByte p = s.readByte p := rfl
@[simp] theorem State.setDt_keyDown (b : Byte) (j : Nat) : (s.setDt b).keyDown j = s.keyDown j := rfl

/-! ## setSt -/

@[simp] theorem State.setSt_mem (b : Byte) : (s.setSt b).mem = s.mem := rfl
@[simp] theorem State.setSt_v (b : Byte) : (s.setSt b).v = s.v := rfl
@[simp] theorem State.setSt_i (b : Byte) : (s.setSt b).i = s.i := rfl
@[simp] theorem State.setSt_pc (b : Byte) : (s.setSt b).pc = s.pc := rfl
@[simp] theorem State.setSt_stack (b : Byte) : (s.setSt b).stack = s.stack := rfl
@[simp] theorem State.setSt_sp (b : Byte) : (s.setSt b).sp = s.sp := rfl
@[simp] theorem State.setSt_dt (b : Byte) : (s.setSt b).dt = s.dt := rfl
@[simp] theorem State.setSt_st (b : Byte) : (s.setSt b).st = b := rfl
@[simp] theorem State.setSt_pix (b : Byte) : (s.setSt b).pix = s.pix := rfl
@[simp] theorem State.setSt_dirty (b : Byte) : (s.setSt b).dirty = s.dirty := rfl
@[simp] theorem State.setSt_key (b : Byte) : (s.setSt b).key = s.key := rfl
@[simp] theorem State.setSt_kw (b : Byte) : (s.setSt b).kw = s.kw := rfl
@[simp] theorem State.setSt_err (b : Byte) : (s.setSt b).err = s.err := rfl
@[simp] theorem State.setSt_draws (b : Byte) : (s.setSt b).draws = s.draws := rfl
@[simp] theorem State.setSt_cfg (b : Byte) : (s.setSt b).cfg = s.cfg := rfl
@[simp] theorem State.setSt_readV (b : Byte) (q : Nibble) : (s.setSt b).readV q = s.readV q := rfl
@[simp] theorem State.setSt_readByte (b : Byte) (p : Nat) : (s.setSt b).readByte p = s.readByte p := rfl
@[simp] theorem State.setSt_keyDown (b : Byte) (j : Nat) : (s.setSt b).keyDown j = s.keyDown j := rfl

/-! ## setPix -/

@[simp] theorem State.setPix_mem (f : Frame) : (s.setPix f).mem = s.mem := rfl
@[simp] theorem State.setPix_v (f : Frame) : (s.setPix f).v = s.v := rfl
@[simp] theorem State.setPix_i (f : Frame) : (s.setPix f).i = s.i := rfl
@[simp] theorem State.setPix_pc (f : Frame) : (s.setPix f).pc = s.pc := rfl
@[simp] theorem State.setPix_stack (f : Frame) : (s.setPix f).stack = s.stack := rfl
@[simp] theorem State.setPix_sp (f : Frame) : (s.setPix f).sp = s.sp := rfl
@[simp] theorem State.setPix_dt (f : Frame) : (s.setPix f).dt = s.dt := rfl
@[simp] theorem State.setPix_st (f : Frame) : (s.setPix f).st = s.st := rfl
@[simp] theorem State.setPix_pix (f : Frame) : (s.setPix f).pix = f := rfl
@[simp] theorem State.setPix_dirty (f : Frame) : (s.setPix f).dirty = s.dirty := rfl
@[simp] theorem State.setPix_key (f : Frame) : (s.setPix f).key = s.key := rfl
@[simp] theorem State.setPix_kw (f : Frame) : (s.setPix f).kw = s.kw := rfl
@[simp] theorem State.setPix_err (f : Frame) : (s.setPix f).err = s.err := rfl
@[simp] theorem State.setPix_draws (f : Frame) : (s.setPix f).draws = s.draws := rfl
@[simp] theorem State.setPix_cfg (f : Frame) : (s.setPix f).cfg = s.cfg := rfl
@[simp] theorem State.setPix_readV (f : Frame) (q : Nibble) : (s.setPix f).readV q = s.readV q := rfl
@[simp] theorem State.setPix_readByte (f : Frame) (p : Nat) : (s.setPix f).readByte p = s.readByte p := rfl
@[simp] theorem State.setPix_keyDown (f : Frame) (j : Nat) : (s.setPix f).keyDown j = s.keyDown j := rfl

/-! ## setDirty -/

@[simp] theorem State.setDirty_mem (b : Bool) : (s.setDirty b).mem = s.mem := rfl
@[simp] theorem State.setDirty_v (b : Bool) : (s.setDirty b).v = s.v := rfl
@[simp] theorem State.setDirty_i (b : Bool) : (s.setDirty b).i = s.i := rfl
@[simp] theorem State.setDirty_pc (b : Bool) : (s.setDirty b).pc = s.pc := rfl
@[simp] theorem State.setDirty_stack (b : Bool) : (s.setDirty b).stack = s.stack := rfl
@[simp] theorem State.setDirty_sp (b : Bool) : (s.setDirty b).sp = s.sp := rfl
@[simp] theorem State.setDirty_dt (b : Bool) : (s.setDirty b).dt = s.dt := rfl
@[simp] theorem State.setDirty_st (b : Bool) : (s.setDirty b).st = s.st := rfl
@[simp] theorem State.setDirty_pix (b : Bool) : (s.setDirty b).pix = s.pix := rfl
@[simp] theorem State.setDirty_dirty (b : Bool) : (s.setDirty b).dirty = b := rfl
@[simp] theorem State.setDirty_key (b : Bool) : (s.setDirty b).key = s.key := rfl
@[simp] theorem State.setDirty_kw (b : Bool) : (s.setDirty b).kw = s.kw := rfl
@[simp] theorem State.setDirty_err (b : Bool) : (s.setDirty b).err = s.err := rfl
@[simp] theorem State.setDirty_draws (b : Bool) : (s.setDirty b).draws = s.draws := rfl
@[simp] theorem State.setDirty_cfg (b : Bool) : (s.setDirty b).cfg = s.cfg := rfl
@[simp] theorem State.setDirty_readV (b : Bool) (q : Nibble) : (s.setDirty b).readV q = s.readV q := rfl
@[simp] theorem State.setDirty_readByte (b : Bool) (p : Nat) : (s.setDirty b).readByte p = s.readByte p := rfl
@[simp] theorem State.setDirty_keyDown (b : Bool) (j : Nat) : (s.setDirty b).keyDown j = s.keyDown j := rfl

/-! ## setKeys -/

@[simp] theorem State.setKeys_mem (k : Keys) : (s.setKeys k).mem = s.mem := rfl
@[simp] theorem State.setKeys_v (k : Keys) : (s.setKeys k).v = s.v := rfl
@[simp] theorem State.setKeys_i (k : Keys) : (s.setKeys k).i = s.i := rfl
@[simp] theorem State.setKeys_pc (k : Keys) : (s.setKeys k).pc = s.pc := rfl
@[simp] theorem State.setKeys_stack (k : Keys) : (s.setKeys k).stack = s.stack := rfl
@[simp] theorem State.setKeys_sp (k : Keys) : (s.setKeys k).sp = s.sp := rfl
@[simp] theorem State.setKeys_dt (k : Keys) : (s.setKeys k).dt = s.dt := rfl
@[simp] theorem State.setKeys_st (k : Keys) : (s.setKeys k).st = s.st := rfl
@[simp] theorem State.setKeys_pix (k : Keys) : (s.setKeys k).pix = s.pix := rfl
@[simp] theorem State.setKeys_dirty (k : Keys) : (s.setKeys k).dirty = s.dirty := rfl
@[simp] theorem State.setKeys_key (k : Keys) : (s.setKeys k).key = k := rfl
@[simp] theorem State.setKeys_kw (k : Keys) : (s.setKeys k).kw = s.kw := rfl
@[simp] theorem State.setKeys_err (k : Keys) : (s.setKeys k).err = s.err := rfl
@[simp] theorem State.setKeys_draws (k : Keys) : (s.setKeys k).draws = s.draws := rfl
@[simp] theorem State.setKeys_cfg (k : Keys) : (s.setKeys k).cfg = s.cfg := rfl
@[simp] theorem State.setKeys_readV (k : Keys) (q : Nibble) : (s.setKeys k).readV q = s.readV q := rfl
@[simp] theorem State.setKeys_readByte (k : Keys) (p : Nat) : (s.setKeys k).readByte p = s.readByte p := rfl

/-! ## setKw -/

@[simp] theorem State.setKw_mem (r : Option Nibble) : (s.setKw r).mem = s.mem := rfl
@[simp] theorem State.setKw_v (r : Option Nibble) : (s.setKw r).v = s.v := rfl
@[simp] theorem State.setKw_i (r : Option Nibble) : (s.setKw r).i = s.i := rfl
@[simp] theorem State.setKw_pc (r : Option Nibble) : (s.setKw r).pc = s.pc := rfl
@[simp] theorem State.setKw_stack (r : Option Nibble) : (s.setKw r).stack = s.stack := rfl
@[simp] theorem State.setKw_sp (r : Option Nibble) : (s.setKw r).sp = s.sp := rfl
@[simp] theorem State.setKw_dt (r : Option Nibble) : (s.setKw r).dt = s.dt := rfl
@[simp] theorem State.setKw_st (r : Option Nibble) : (s.setKw r).st = s.st := rfl
@[simp] theorem State.setKw_pix (r : Option Nibble) : (s.setKw r).pix = s.pix := rfl
@[simp] theorem State.setKw_dirty (r : Option Nibble) : (s.setKw r).dirty = s.dirty := rfl
@[simp] theorem State.setKw_key (r : Option Nibble) : (s.setKw r).key = s.key := rfl
@[simp] theorem State.setKw_kw (r : Option Nibble) : (s.setKw r).kw = r := rfl
@[simp] theorem State.setKw_err (r : Option Nibble) : (s.setKw r).err = s.err := rfl
@[simp] theorem State.setKw_draws (r : Option Nibble) : (s.setKw r).draws = s.draws := rfl
@[simp] theorem State.setKw_cfg (r : Option Nibble) : (s.setKw r).cfg = s.cfg := rfl
@[simp] theorem State.setKw_readV (r : Option Nibble) (q : Nibble) : (s.setKw r).readV q = s.readV q := rfl
@[simp] theorem State.setKw_readByte (r : Option Nibble) (p : Nat) : (s.setKw r).readByte p = s.readByte p := rfl
@[simp] theorem State.setKw_keyDown (r : Option Nibble) (j : Nat) : (s.setKw r).keyDown j = s.keyDown j := rfl

/-! ## drew -/

@[simp] theorem State.drew_mem : (s.drew).mem = s.mem := rfl
@[simp] theorem State.drew_v : (s.drew).v = s.v := rfl
@[simp] theorem State.drew_i : (s.drew).i = s.i := rfl
@[simp] theorem State.drew_pc : (s.drew).pc = s.pc := rfl
@[simp] theorem State.drew_stack : (s.drew).stack = s.stack := rfl
@[simp] theorem State.drew_sp : (s.drew).sp = s.sp := rfl
@[simp] theorem State.drew_dt : (s.drew).dt = s.dt := rfl
@[simp] theorem State.drew_st : (s.drew).st = s.st := rfl
@[simp] theorem State.drew_pix : (s.drew).pix = s.pix := rfl
@[simp] theorem State.drew_dirty : (s.drew).dirty = s.dirty := rfl
@[simp] theorem State.drew_key : (s.drew).key = s.key := rfl
@[simp] theorem State.drew_kw : (s.drew).kw = s.kw := rfl
@[simp] theorem State.drew_err : (s.drew).err = s.err := rfl
@[simp] theorem State.drew_draws : (s.drew).draws = s.draws + 1 := rfl
@[simp] theorem State.drew_cfg : (s.drew).cfg = s.cfg := rfl
@[simp] theorem State.drew_readV (q : Nibble) : (s.drew).readV q = s.readV q := rfl
@[simp] theorem State.drew_readByte (p : Nat) : (s.drew).readByte p = s.readByte p := rfl
@[simp] theorem State.drew_keyDown (j : Nat) : (s.drew).keyDown j = s.keyDown j := rfl

/-! ## latch -/

@[simp] theorem State.latch_mem (f : Fault) : (s.latch f).mem = s.mem := rfl
@[simp] theorem State.latch_v (f : Fault) : (s.latch f).v = s.v := rfl
@[simp] theorem State.latch_i (f : Fault) : (s.latch f).i = s.i := rfl
@[simp] theorem State.latch_pc (f : Fault) : (s.latch f).pc = s.pc := rfl
@[simp] theorem State.latch_stack (f : Fault) : (s.latch f).stack = s.stack := rfl
@[simp] theorem State.latch_sp (f : Fault) : (s.latch f).sp = s.sp := rfl
@[simp] theorem State.latch_dt (f : Fault) : (s.latch f).dt = s.dt := rfl
@[simp] theorem State.latch_st (f : Fault) : (s.latch f).st = s.st := rfl
@[simp] theorem State.latch_pix (f : Fault) : (s.latch f).pix = s.pix := rfl
@[simp] theorem State.latch_dirty (f : Fault) : (s.latch f).dirty = s.dirty := rfl
@[simp] theorem State.latch_key (f : Fault) : (s.latch f).key = s.key := rfl
@[simp] theorem State.latch_kw (f : Fault) : (s.latch f).kw = s.kw := rfl
@[simp] theorem State.latch_err (f : Fault) : (s.latch f).err = some f := rfl
@[simp] theorem State.latch_draws (f : Fault) : (s.latch f).draws = s.draws := rfl
@[simp] theorem State.latch_cfg (f : Fault) : (s.latch f).cfg = s.cfg := rfl
@[simp] theorem State.latch_readV (f : Fault) (q : Nibble) : (s.latch f).readV q = s.readV q := rfl
@[simp] theorem State.latch_readByte (f : Fault) (p : Nat) : (s.latch f).readByte p = s.readByte p := rfl
@[simp] theorem State.latch_keyDown (f : Fault) (j : Nat) : (s.latch f).keyDown j = s.keyDown j := rfl

/-! ## advance -/

@[simp] theorem State.advance_mem : (s.advance).mem = s.mem := rfl
@[simp] theorem State.advance_v : (s.advance).v = s.v := rfl
@[simp] theorem State.advance_i : (s.advance).i = s.i := rfl
@[simp] theorem State.advance_pc : (s.advance).pc = s.pc + 2 := rfl
@[simp] theorem State.advance_stack : (s.advance).stack = s.stack := rfl
@[simp] theorem State.advance_sp : (s.advance).sp = s.sp := rfl
@[simp] theorem State.advance_dt : (s.advance).dt = s.dt := rfl
@[simp] theorem State.advance_st : (s.advance).st = s.st := rfl
@[simp] theorem State.advance_pix : (s.advance).pix = s.pix := rfl
@[simp] theorem State.advance_dirty : (s.advance).dirty = s.dirty := rfl
@[simp] theorem State.advance_key : (s.advance).key = s.key := rfl
@[simp] theorem State.advance_kw : (s.advance).kw = s.kw := rfl
@[simp] theorem State.advance_err : (s.advance).err = s.err := rfl
@[simp] theorem State.advance_draws : (s.advance).draws = s.draws := rfl
@[simp] theorem State.advance_cfg : (s.advance).cfg = s.cfg := rfl
@[simp] theorem State.advance_readV (q : Nibble) : (s.advance).readV q = s.readV q := rfl
@[simp] theorem State.advance_readByte (p : Nat) : (s.advance).readByte p = s.readByte p := rfl
@[simp] theorem State.advance_keyDown (j : Nat) : (s.advance).keyDown j = s.keyDown j := rfl

/-! ## skipIf -/

@[simp] theorem State.skipIf_mem (c : Bool) : (s.skipIf c).mem = s.mem := rfl
@[simp] theorem State.skipIf_v (c : Bool) : (s.skipIf c).v = s.v := rfl
@[simp] theorem State.skipIf_i (c : Bool) : (s.skipIf c).i = s.i := rfl
@[simp] theorem State.skipIf_pc (c : Bool) : (s.skipIf c).pc = if c then s.pc + 4 else s.pc + 2 := rfl
@[simp] theorem State.skipIf_stack (c : Bool) : (s.skipIf c).stack = s.stack := rfl
@[simp] theorem State.skipIf_sp (c : Bool) : (s.skipIf c).sp = s.sp := rfl
@[simp] theorem State.skipIf_dt (c : Bool) : (s.skipIf c).dt = s.dt := rfl
@[simp] theorem State.skipIf_st (c : Bool) : (s.skipIf c).st = s.st := rfl
@[simp] theorem State.skipIf_pix (c : Bool) : (s.skipIf c).pix = s.pix := rfl
@[simp] theorem State.skipIf_dirty (c : Bool) : (s.skipIf c).dirty = s.dirty := rfl
@[simp] theorem State.skipIf_key (c : Bool) : (s.skipIf c).key = s.key := rfl
@[simp] theorem State.skipIf_kw (c : Bool) : (s.skipIf c).kw = s.kw := rfl
@[simp] theorem State.skipIf_err (c : Bool) : (s.skipIf c).err = s.err := rfl
@[simp] theorem State.skipIf_draws (c : Bool) : (s.skipIf c).draws = s.draws := rfl
@[simp] theorem State.skipIf_cfg (c : Bool) : (s.skipIf c).cfg = s.cfg := rfl
@[simp] theorem State.skipIf_readV (c : Bool) (q : Nibble) : (s.skipIf c).readV q = s.readV q := rfl
@[simp] theorem State.skipIf_readByte (c : Bool) (p : Nat) : (s.skipIf c).readByte p = s.readByte p := rfl
@[simp] theorem State.skipIf_keyDown (c : Bool) (j : Nat) : (s.skipIf c).keyDown j = s.keyDown j := rfl

/-! ## writeV -/

@[simp] theorem State.writeV_mem (x : Nibble) (b : Byte) : (s.writeV x b).mem = s.mem := rfl
@[simp] theorem State.writeV_v (x : Nibble) (b : Byte) : (s.writeV x b).v = s.v.set x.toNat b x.isLt := rfl
@[simp] theorem State.writeV_i (x : Nibble) (b : Byte) : (s.writeV x b).i = s.i := rfl
@[simp] theorem State.writeV_pc (x : Nibble) (b : Byte) : (s.writeV x b).pc = s.pc := rfl
@[simp] theorem State.writeV_stack (x : Nibble) (b : Byte) : (s.writeV x b).stack = s.stack := rfl
@[simp] theorem State.writeV_sp (x : Nibble) (b : Byte) : (s.writeV x b).sp = s.sp := rfl
@[simp] theorem State.writeV_dt (x : Nibble) (b : Byte) : (s.writeV x b).dt = s.dt := rfl
@[simp] theorem State.writeV_st (x : Nibble) (b : Byte) : (s.writeV x b).st = s.st := rfl
@[simp] theorem State.writeV_pix (x : Nibble) (b : Byte) : (s.writeV x b).pix = s.pix := rfl
@[simp] theorem State.writeV_dirty (x : Nibble) (b : Byte) : (s.writeV x b).dirty = s.dirty := rfl
@[simp] theorem State.writeV_key (x : Nibble) (b : Byte) : (s.writeV x b).key = s.key := rfl
@[simp] theorem State.writeV_kw (x : Nibble) (b : Byte) : (s.writeV x b).kw = s.kw := rfl
@[simp] theorem State.writeV_err (x : Nibble) (b : Byte) : (s.writeV x b).err = s.err := rfl
@[simp] theorem State.writeV_draws (x : Nibble) (b : Byte) : (s.writeV x b).draws = s.draws := rfl
@[simp] theorem State.writeV_cfg (x : Nibble) (b : Byte) : (s.writeV x b).cfg = s.cfg := rfl
@[simp] theorem State.writeV_readByte (x : Nibble) (b : Byte) (p : Nat) : (s.writeV x b).readByte p = s.readByte p := rfl
@[simp] theorem State.writeV_keyDown (x : Nibble) (b : Byte) (j : Nat) : (s.writeV x b).keyDown j = s.keyDown j := rfl

/-! ## writeByte -/

@[simp] theorem State.writeByte_mem (a : Nat) (b : Byte) : (s.writeByte a b).mem = Memory.write s.cfg.font s.mem a b := rfl
@[simp] theorem State.writeByte_v (a : Nat) (b : Byte) : (s.writeByte a b).v = s.v := rfl
@[simp] theorem State.writeByte_i (a : Nat) (b : Byte) : (s.writeByte a b).i = s.i := rfl
@[simp] theorem State.writeByte_pc (a : Nat) (b : Byte) : (s.writeByte a b).pc = s.pc := rfl
@[simp] theorem State.writeByte_stack (a : Nat) (b : Byte) : (s.writeByte a b).stack = s.stack := rfl
@[simp] theorem State.writeByte_sp (a : Nat) (b : Byte) : (s.writeByte a b).sp = s.sp := rfl
@[simp] theorem State.writeByte_dt (a : Nat) (b : Byte) : (s.writeByte a b).dt = s.dt := rfl
@[simp] theorem State.writeByte_st (a : Nat) (b : Byte) : (s.writeByte a b).st = s.st := rfl
@[simp] theorem State.writeByte_pix (a : Nat) (b : Byte) : (s.writeByte a b).pix = s.pix := rfl
@[simp] theorem State.writeByte_dirty (a : Nat) (b : Byte) : (s.writeByte a b).dirty = s.dirty := rfl
@[simp] theorem State.writeByte_key (a : Nat) (b : Byte) : (s.writeByte a b).key = s.key := rfl
@[simp] theorem State.writeByte_kw (a : Nat) (b : Byte) : (s.writeByte a b).kw = s.kw := rfl
@[simp] theorem State.writeByte_err (a : Nat) (b : Byte) : (s.writeByte a b).err = s.err := rfl
@[simp] theorem State.writeByte_draws (a : Nat) (b : Byte) : (s.writeByte a b).draws = s.draws := rfl
@[simp] theorem State.writeByte_cfg (a : Nat) (b : Byte) : (s.writeByte a b).cfg = s.cfg := rfl
@[simp] theorem State.writeByte_readV (a : Nat) (b : Byte) (q : Nibble) : (s.writeByte a b).readV q = s.readV q := rfl
@[simp] theorem State.writeByte_keyDown (a : Nat) (b : Byte) (j : Nat) : (s.writeByte a b).keyDown j = s.keyDown j := rfl

/-! ## push -/

@[simp] theorem State.push_mem (h : s.sp.val < 16) (w : Word) : (s.push h w).mem = s.mem := rfl
@[simp] theorem State.push_v (h : s.sp.val < 16) (w : Word) : (s.push h w).v = s.v := rfl
@[simp] theorem State.push_i (h : s.sp.val < 16) (w : Word) : (s.push h w).i = s.i := rfl
@[simp] theorem State.push_pc (h : s.sp.val < 16) (w : Word) : (s.push h w).pc = s.pc := rfl
@[simp] theorem State.push_stack (h : s.sp.val < 16) (w : Word) : (s.push h w).stack = s.stack.set s.sp.val w h := rfl
@[simp] theorem State.push_sp (h : s.sp.val < 16) (w : Word) : (s.push h w).sp = ⟨s.sp.val + 1, by omega⟩ := rfl
@[simp] theorem State.push_dt (h : s.sp.val < 16) (w : Word) : (s.push h w).dt = s.dt := rfl
@[simp] theorem State.push_st (h : s.sp.val < 16) (w : Word) : (s.push h w).st = s.st := rfl
@[simp] theorem State.push_pix (h : s.sp.val < 16) (w : Word) : (s.push h w).pix = s.pix := rfl
@[simp] theorem State.push_dirty (h : s.sp.val < 16) (w : Word) : (s.push h w).dirty = s.dirty := rfl
@[simp] theorem State.push_key (h : s.sp.val < 16) (w : Word) : (s.push h w).key = s.key := rfl
@[simp] theorem State.push_kw (h : s.sp.val < 16) (w : Word) : (s.push h w).kw = s.kw := rfl
@[simp] theorem State.push_err (h : s.sp.val < 16) (w : Word) : (s.push h w).err = s.err := rfl
@[simp] theorem State.push_draws (h : s.sp.val < 16) (w : Word) : (s.push h w).draws = s.draws := rfl
@[simp] theorem State.push_cfg (h : s.sp.val < 16) (w : Word) : (s.push h w).cfg = s.cfg := rfl
@[simp] theorem State.push_readV (h : s.sp.val < 16) (w : Word) (q : Nibble) : (s.push h w).readV q = s.readV q := rfl
@[simp] theorem State.push_readByte (h : s.sp.val < 16) (w : Word) (p : Nat) : (s.push h w).readByte p = s.readByte p := rfl
@[simp] theorem State.push_keyDown (h : s.sp.val < 16) (w : Word) (j : Nat) : (s.push h w).keyDown j = s.keyDown j := rfl

/-! ## pop -/

@[simp] theorem State.pop_mem : (s.pop).mem = s.mem := rfl
@[simp] theorem State.pop_v : (s.pop).v = s.v := rfl
@[simp] theorem State.pop_i : (s.pop).i = s.i := rfl
@[simp] theorem State.pop_pc : (s.pop).pc = s.pc := rfl
@[simp] theorem State.pop_stack : (s.pop).stack = s.stack := rfl
@[simp] theorem State.pop_sp : (s.pop).sp = ⟨s.sp.val - 1, by omega⟩ := rfl
@[simp] theorem State.pop_dt : (s.pop).dt = s.dt := rfl
@[simp] theorem State.pop_st : (s.pop).st = s.st := rfl
@[simp] theorem State.pop_pix : (s.pop).pix = s.pix := rfl
@[simp] theorem State.pop_dirty : (s.pop).dirty = s.dirty := rfl
@[simp] theorem State.pop_key : (s.pop).key = s.key := rfl
@[simp] theorem State.pop_kw : (s.pop).kw = s.kw := rfl
@[simp] theorem State.pop_err : (s.pop).err = s.err := rfl
@[simp] theorem State.pop_draws : (s.pop).draws = s.draws := rfl
@[simp] theorem State.pop_cfg : (s.pop).cfg = s.cfg := rfl
@[simp] theorem State.pop_readV (q : Nibble) : (s.pop).readV q = s.readV q := rfl
@[simp] theorem State.pop_readByte (p : Nat) : (s.pop).readByte p = s.readByte p := rfl
@[simp] theorem State.pop_keyDown (j : Nat) : (s.pop).keyDown j = s.keyDown j := rfl

/-! ## consumeKey -/

@[simp] theorem State.consumeKey_mem (k : Nat) : (s.consumeKey k).mem = s.mem := rfl
@[simp] theorem State.consumeKey_v (k : Nat) : (s.consumeKey k).v = s.v := rfl
@[simp] theorem State.consumeKey_i (k : Nat) : (s.consumeKey k).i = s.i := rfl
@[simp] theorem State.consumeKey_pc (k : Nat) : (s.consumeKey k).pc = s.pc := rfl
@[simp] theorem State.consumeKey_stack (k : Nat) : (s.consumeKey k).stack = s.stack := rfl
@[simp] theorem State.consumeKey_sp (k : Nat) : (s.consumeKey k).sp = s.sp := rfl
@[simp] theorem State.consumeKey_dt (k : Nat) : (s.consumeKey k).dt = s.dt := rfl
@[simp] theorem State.consumeKey_st (k : Nat) : (s.consumeKey k).st = s.st := rfl
@[simp] theorem State.consumeKey_pix (k : Nat) : (s.consumeKey k).pix = s.pix := rfl
@[simp] theorem State.consumeKey_dirty (k : Nat) : (s.consumeKey k).dirty = s.dirty := rfl
@[simp] theorem State.consumeKey_key (k : Nat) : (s.consumeKey k).key = s.key.setIfInBounds k false := rfl
@[simp] theorem State.consumeKey_kw (k : Nat) : (s.consumeKey k).kw = s.kw := rfl
@[simp] theorem State.consumeKey_err (k : Nat) : (s.consumeKey k).err = s.err := rfl
@[simp] theorem State.consumeKey_draws (k : Nat) : (s.consumeKey k).draws = s.draws := rfl
@[simp] theorem State.consumeKey_cfg (k : Nat) : (s.consumeKey k).cfg = s.cfg := rfl
@[simp] theorem State.consumeKey_readV (k : Nat) (q : Nibble) : (s.consumeKey k).readV q = s.readV q := rfl
@[simp] theorem State.consumeKey_readByte (k : Nat) (p : Nat) : (s.consumeKey k).readByte p = s.readByte p := rfl

end Sys2Proof.Machine
end

