-- ==== Sys2Proof/Laws/Memory.lean ====
section
/-! SUPPORT. Memory: reading after a write, the canonical form, and blocks of bytes. -/

namespace Sys2Proof.Machine

variable (font : Font)

theorem Memory.read_write_same (m : Memory) (a : Nat) (v : Byte)
    (hm : m.Pairwise fun c d => c.1 < d.1) : Memory.read font (Memory.write font m a v) a = v := by
  induction m with
  | nil =>
    by_cases hv : v = unlistedByte font a <;> simp [Memory.write, Memory.read, hv]
  | cons c m ih =>
    obtain ⟨b, w⟩ := c
    have hhead : ∀ c ∈ m, b < c.1 := (List.pairwise_cons.mp hm).1
    have tail_unlisted : ∀ m' : Memory, (∀ c ∈ m', a < c.1) → Memory.read font m' a = unlistedByte font a := by
      intro m' h
      induction m' with
      | nil => rfl
      | cons d m' ih' =>
        have hd := h d (by simp)
        simp only [Memory.read]
        rw [if_neg (by omega)]
        exact ih' fun c hc => h c (by simp [hc])
    unfold Memory.write
    split
    · next hab =>
      split
      · next hv =>
        rw [tail_unlisted, hv]
        intro c hc
        rcases List.mem_cons.mp hc with rfl | hc
        · exact hab
        · exact Nat.lt_trans hab (hhead c hc)
      · simp [Memory.read]
    · split
      · next hab =>
        subst hab
        split
        · next hv => rw [tail_unlisted m hhead, hv]
        · simp [Memory.read]
      · next hne =>
        simp only [Memory.read, if_neg hne]
        exact ih (List.pairwise_cons.mp hm).2

theorem Memory.read_write_other (m : Memory) (a p : Nat) (v : Byte) (h : p ≠ a) :
    Memory.read font (Memory.write font m a v) p = Memory.read font m p := by
  induction m with
  | nil => by_cases hv : v = unlistedByte font a <;> simp [Memory.write, Memory.read, hv, h]
  | cons c m ih =>
    obtain ⟨b, w⟩ := c
    unfold Memory.write
    split
    · split <;> simp [Memory.read, h]
    · split
      · next hab => subst hab; split <;> simp [Memory.read, h]
      · simp only [Memory.read, ih]

/-- Every address a write lists is the written one or was listed before. -/
theorem Memory.mem_write {m : Memory} {a : Nat} {v : Byte} {c : Host.Cell} (h : c ∈ Memory.write font m a v) :
    (c = (a, v) ∧ v ≠ unlistedByte font a) ∨ c ∈ m := by
  induction m with
  | nil =>
    unfold Memory.write at h
    split at h
    · simp at h
    · next hv => exact .inl ⟨by simpa using h, hv⟩
  | cons d m ih =>
    obtain ⟨b, w⟩ := d
    unfold Memory.write at h
    split at h
    · split at h
      · exact .inr h
      · next hv =>
        rcases List.mem_cons.mp h with h | h
        · exact .inl ⟨h, hv⟩
        · exact .inr h
    · split at h
      · split at h
        · exact .inr (List.mem_cons_of_mem _ h)
        · next hv =>
          rcases List.mem_cons.mp h with h | h
          · exact .inl ⟨h, hv⟩
          · exact .inr (List.mem_cons_of_mem _ h)
      · rcases List.mem_cons.mp h with h | h
        · exact .inr (h ▸ List.mem_cons_self)
        · exact (ih h).imp_right (List.mem_cons_of_mem _)

theorem Memory.write_sorted (m : Memory) (a : Nat) (v : Byte) (hm : m.Pairwise fun c d => c.1 < d.1) :
    (Memory.write font m a v).Pairwise fun c d => c.1 < d.1 := by
  induction m with
  | nil => unfold Memory.write; split <;> simp
  | cons c m ih =>
    obtain ⟨b, w⟩ := c
    have hhead := (List.pairwise_cons.mp hm).1
    have htail := (List.pairwise_cons.mp hm).2
    unfold Memory.write
    split
    · next hab =>
      split
      · exact hm
      · refine List.pairwise_cons.mpr ⟨fun c hc => ?_, hm⟩
        rcases List.mem_cons.mp hc with rfl | hc
        · exact hab
        · exact Nat.lt_trans hab (hhead c hc)
    · next hnlt =>
      split
      · next hab =>
        subst hab
        split
        · exact htail
        · exact List.pairwise_cons.mpr ⟨hhead, htail⟩
      · next hne =>
        refine List.pairwise_cons.mpr ⟨fun c hc => ?_, ih htail⟩
        rcases Memory.mem_write font hc with ⟨rfl, -⟩ | hc
        · show b < a
          omega
        · exact hhead c hc

/-- A write inside the address space keeps the canonical form. -/
theorem Memory.write_wf (m : Memory) (a : Nat) (v : Byte) (ha : a < memSize) (hm : Memory.wf font m) :
    Memory.wf font (Memory.write font m a v) := by
  refine ⟨Memory.write_sorted font m a v hm.1, fun c hc => ?_⟩
  rcases Memory.mem_write font hc with ⟨rfl, hv⟩ | hc
  · exact ⟨ha, hv⟩
  · exact hm.2 c hc

/-- The memory of every new instance is canonical. -/
theorem Memory.nil_wf : Memory.wf font [] := by simp [Memory.wf]

variable (s : State)

theorem State.readByte_writeByte_other (a p : Nat) (v : Byte) (h : p ≠ a) :
    (s.writeByte a v).readByte p = s.readByte p := Memory.read_write_other _ _ _ _ _ h

theorem State.readByte_writeByte_same (a : Nat) (v : Byte) (hm : Memory.wf s.cfg.font s.mem) :
    (s.writeByte a v).readByte a = v := Memory.read_write_same _ _ _ _ hm.1

/-- A block write changes memory only. -/
theorem State.writeBytes_mem_only (a : Nat) (bs : List Byte) :
    s.writeBytes a bs = { s with mem := (s.writeBytes a bs).mem } := by
  induction bs generalizing s a with
  | nil => rfl
  | cons b bs ih =>
    conv_lhs => rw [State.writeBytes, ih]
    rfl

/-- Reading after a block write: inside the block the byte written there, outside it the byte before. -/
theorem State.readByte_writeBytes (a p : Nat) (bs : List Byte) (hm : s.mem.Pairwise fun c d => c.1 < d.1) :
    (s.writeBytes a bs).readByte p =
      if h : a ≤ p ∧ p < a + bs.length then bs[p - a]'(by omega) else s.readByte p := by
  induction bs generalizing s a with
  | nil => rw [dif_neg (by simp)]; rfl
  | cons b bs ih =>
    rw [State.writeBytes, ih _ _ (Memory.write_sorted _ _ _ _ hm)]
    by_cases hp : p = a
    · subst hp
      rw [dif_neg (by omega), dif_pos (by simp)]
      have h : (s.writeByte p b).readByte p = b := Memory.read_write_same s.cfg.font s.mem p b hm
      simp [h]
    · by_cases hin : a + 1 ≤ p ∧ p < a + 1 + bs.length
      · rw [dif_pos hin, dif_pos (by simp; omega)]
        obtain ⟨k, hk⟩ : ∃ k, p - a = k + 1 := ⟨p - a - 1, by omega⟩
        have hk' : p - (a + 1) = k := by omega
        simp [hk, hk']
      · rw [dif_neg hin, dif_neg (by simp; omega)]
        exact State.readByte_writeByte_other _ _ _ _ hp

/-- Outside the block a block write changes no byte, whatever form memory has. -/
theorem State.readByte_writeBytes_outside (a p : Nat) (bs : List Byte) (h : p < a ∨ a + bs.length ≤ p) :
    (s.writeBytes a bs).readByte p = s.readByte p := by
  induction bs generalizing s a with
  | nil => rfl
  | cons b bs ih =>
    simp only [List.length_cons] at h
    rw [State.writeBytes, ih _ _ (by omega), State.readByte_writeByte_other _ _ _ _ (by omega)]

/-- A block write inside the address space keeps the canonical form. -/
theorem State.writeBytes_wf (a : Nat) (bs : List Byte) (h : a + bs.length ≤ memSize)
    (hm : Memory.wf s.cfg.font s.mem) : Memory.wf (s.writeBytes a bs).cfg.font (s.writeBytes a bs).mem := by
  induction bs generalizing s a with
  | nil => exact hm
  | cons b bs ih =>
    simp only [List.length_cons] at h
    exact ih _ _ (by omega) (Memory.write_wf _ _ _ _ (by omega) hm)

end Sys2Proof.Machine
end

