-- ==== Sys2Proof/Laws/Ops.lean ====
section
/-! SUPPORT. One lemma per shared operation that says all it can do: registers, errors, the memory guard, keys, stack. -/

namespace Sys2Proof.Machine

variable (s : State)

/-! ## Registers -/

@[simp] theorem State.readV_writeV_same (x : Nibble) (b : Byte) : (s.writeV x b).readV x = b := by
  simp [State.readV, State.writeV]

theorem State.readV_writeV (x q : Nibble) (b : Byte) : (s.writeV x b).readV q = if q = x then b else s.readV q := by
  by_cases h : q = x
  · subst h; simp
  · have : x.toNat ≠ q.toNat := fun e => h (BitVec.eq_of_toNat_eq e.symm)
    simp [State.readV, State.writeV, h, Vector.getElem_set_ne _ _ this]

/-- `WriteRF` in the registers: the result, the flag, or the register before. -/
theorem State.readV_writeRF (x q : Nibble) (r f : Byte) :
    (s.writeRF x r f).readV q =
      if q = x ∧ (x ≠ 0xF ∨ s.cfg.vfOrder = .flagFirst) then r else if q = 0xF then f else s.readV q := by
  unfold State.writeRF
  cases h : s.cfg.vfOrder <;> simp only [State.readV_writeV, flagReg] <;> by_cases hx : q = x <;>
    by_cases hq : q = 0xF <;> simp_all

/-- `WriteRF` writes the registers only. -/
theorem State.writeRF_v_only (x : Nibble) (r f : Byte) :
    s.writeRF x r f = { s with v := (s.writeRF x r f).v } := by
  unfold State.writeRF; split <;> rfl

/-- A register block write writes the registers only. -/
theorem State.writeRegs_v_only (k : Nat) (bs : List Byte) :
    s.writeRegs k bs = { s with v := (s.writeRegs k bs).v } := by
  induction bs generalizing s k with
  | nil => rfl
  | cons b bs ih =>
    conv_lhs => rw [State.writeRegs, ih]
    rfl

/-- Reading a register after a register block write. -/
theorem State.readV_writeRegs (k : Nat) (bs : List Byte) (h : k + bs.length ≤ 16) (q : Nibble) :
    (s.writeRegs k bs).readV q =
      if hq : k ≤ q.toNat ∧ q.toNat < k + bs.length then bs[q.toNat - k]'(by omega) else s.readV q := by
  induction bs generalizing s k with
  | nil => rw [dif_neg (by simp)]; rfl
  | cons b bs ih =>
    simp only [List.length_cons] at h
    rw [State.writeRegs, ih _ _ (by omega), State.readV_writeV]
    have hk : (BitVec.ofNat 4 k).toNat = k := by simp; omega
    by_cases hp : q.toNat = k
    · have : q = BitVec.ofNat 4 k := BitVec.eq_of_toNat_eq (by omega)
      rw [dif_neg (by omega), if_pos this, dif_pos (by simp; omega)]
      simp [hp]
    · have : q ≠ BitVec.ofNat 4 k := fun e => hp (by rw [e, hk])
      by_cases hin : k + 1 ≤ q.toNat ∧ q.toNat < k + 1 + bs.length
      · rw [dif_pos hin, dif_pos (by simp; omega)]
        obtain ⟨j, hj⟩ : ∃ j, q.toNat - k = j + 1 := ⟨q.toNat - k - 1, by omega⟩
        have hj' : q.toNat - (k + 1) = j := by omega
        simp [hj, hj']
      · rw [dif_neg hin, if_neg this, dif_neg (by simp; omega)]

@[simp] theorem State.length_regBlock (x : Nibble) : (s.regBlock x).length = x.toNat + 1 := by simp [State.regBlock]

theorem State.getElem_regBlock (x : Nibble) (k : Nat) (h : k < (s.regBlock x).length) :
    (s.regBlock x)[k] = s.readV (BitVec.ofNat 4 k) := by simp [State.regBlock]

@[simp] theorem State.length_readBytes (a n : Nat) : (s.readBytes a n).length = n := by simp [State.readBytes]

theorem State.getElem_readBytes (a n k : Nat) (h : k < (s.readBytes a n).length) :
    (s.readBytes a n)[k] = s.readByte (a + k) := by simp [State.readBytes]

/-! ## Errors -/

@[simp] theorem raise_eq (f : Fault) : raise f s = .next (s.latch f) := rfl

/-- The memory guard: the whole access is in memory and the instruction goes on, or it raises and writes only the latch. -/
theorem ifInMemory_cases (n : Nat) (t : State) :
    ((n = 0 ∨ s.i.toNat + n ≤ 4096) ∧ ifInMemory n s t = .next t) ∨
    ((0 < n ∧ 4096 < s.i.toNat + n) ∧
      ifInMemory n s t = .next (s.latch (.outOfBounds .memory (max s.i.toNat 4096) s.pc))) := by
  unfold ifInMemory State.outOfMemory memSize
  by_cases h : 0 < n ∧ 4096 < s.i.toNat + n
  · right; exact ⟨h, by simp [h, State.memoryFault, memSize]⟩
  · left
    refine ⟨by omega, if_neg ?_⟩
    simpa [Decidable.not_and_iff_or_not] using h

/-! ## The call stack -/

theorem State.stack_push (h : s.sp.val < 16) (w : Word) (k : Nat) (hk : k < 16) :
    (s.push h w).stack[k] = if k = s.sp.val then w else s.stack[k] := by
  simp only [State.push_stack, Vector.getElem_set]
  by_cases e : s.sp.val = k
  · simp [e]
  · rw [if_neg e, if_neg (Ne.symm e)]

theorem State.top_push (h : s.sp.val < 16) (w : Word) : (s.push h w).top = w := by
  simp [State.top, State.push]

/-! ## Keys -/

theorem State.keyDown_consumeKey (k j : Nat) :
    (s.consumeKey k).keyDown j = if j = k then false else s.keyDown j := by
  unfold State.keyDown State.consumeKey
  by_cases hj : j < 16
  · by_cases e : j = k
    · subst e; simp [hj]
    · simp [hj, e, Ne.symm e]
  · simp [hj]

/-- The least pressed key is pressed, and no smaller one is. -/
theorem State.leastKey_eq_some (k : Nat) :
    s.leastKey = some k ↔ s.keyDown k = true ∧ k < 16 ∧ ∀ j < k, s.keyDown j = false := by
  simp [State.leastKey, List.find?_range_eq_some]

/-- No key is captured exactly when none is pressed. -/
theorem State.leastKey_eq_none : s.leastKey = none ↔ ∀ k, s.keyDown k = false := by
  simp only [State.leastKey, List.find?_range_eq_none]
  refine ⟨fun h k => ?_, fun h k _ => by simp [h k]⟩
  by_cases hk : k < 16
  · simpa using h k hk
  · simp [State.keyDown, hk]

/-- A capture writes one register, consumes the key and advances. -/
theorem State.captureKey_eq (x : Nibble) (k : Nat) :
    s.captureKey x k = { s with v := (s.writeV x (BitVec.ofNat 8 k)).v, key := (s.consumeKey k).key, pc := s.pc + 2 } := rfl

/-! ## Frames -/

theorem OnlyWrites.refl (cs : List Component) : OnlyWrites cs s s := by
  intro c _; cases c <;> simp [Component.agree]

/-- A frame may be widened. -/
theorem OnlyWrites.mono {cs ds : List Component} {s t : State} (h : OnlyWrites cs s t) (hs : cs ⊆ ds) : OnlyWrites ds s t :=
  fun c hc => h c fun m => hc (hs m)

/-- `WriteRF` and the advance write registers and pc only. -/
theorem onlyWrites_writeRF_advance (x : Nibble) (r f : Byte) : OnlyWrites [.v, .pc] s (s.writeRF x r f).advance := by
  rw [State.writeRF_v_only]
  intro c hc
  cases c <;> simp_all [Component.agree] <;> intro _ <;> rfl

/-- A block write and the advance write memory and pc only. -/
theorem onlyWrites_writeBytes_advance (a : Nat) (bs : List Byte) : OnlyWrites [.mem, .pc] s (s.writeBytes a bs).advance := by
  rw [State.writeBytes_mem_only]
  intro c hc
  cases c <;> simp_all [Component.agree] <;> intros <;> rfl

/-- A register block write and the advance write registers and pc only. -/
theorem onlyWrites_writeRegs_advance (k : Nat) (bs : List Byte) : OnlyWrites [.v, .pc] s (s.writeRegs k bs).advance := by
  rw [State.writeRegs_v_only]
  intro c hc
  cases c <;> simp_all [Component.agree] <;> intros <;> rfl

/-- What an error leaves: everything but the latch (R114). -/
theorem onlyWrites_latch (f : Fault) : OnlyWrites [.err] s (s.latch f) := by
  intro c hc; cases c <;> simp_all [Component.agree]

end Sys2Proof.Machine
end

