-- ==== Sys2Proof/Laws/Display.lean ====
section
/-! SUPPORT. The display: what one plotted bit does to every pixel and to the collision. -/

namespace Sys2Proof.Machine

theorem Frame.at_toggle (f : Frame) (x px : Fin 64) (y py : Fin 32) :
    (f.toggle x y).at px py = if px = x ∧ py = y then !f.at px py else f.at px py := by
  unfold Frame.toggle Frame.at
  by_cases hy : y.val = py.val
  · have hy' : py = y := Fin.ext hy.symm
    subst hy'
    by_cases hx : x.val = px.val
    · have hx' : px = x := Fin.ext hx.symm
      subst hx'; simp
    · have hx' : px ≠ x := fun e => hx (by rw [e])
      simp [hx', Vector.getElem_set_ne _ _ hx]
  · have hy' : py ≠ y := fun e => hy (by rw [e])
    simp [hy', Vector.getElem_set_ne _ _ hy]

@[simp] theorem Frame.at_blank (x : Fin 64) (y : Fin 32) : Frame.blank.at x y = false := by
  simp [Frame.blank, Frame.at]

theorem plot_pix (x px : Fin 64) (y py : Fin 32) (cv : Frame × Bool) :
    (plot x y cv).1.at px py = if px = x ∧ py = y then !cv.1.at px py else cv.1.at px py := Frame.at_toggle ..

theorem plot_hit (x : Fin 64) (y : Fin 32) (cv : Frame × Bool) : (plot x y cv).2 = (cv.2 || cv.1.at x y) := rfl

theorem drawRows_cons (x0 y0 : Byte) (r : Nat) (row : Byte) (rows : List Byte) (cv : Frame × Bool) :
    drawRows x0 y0 r (row :: rows) cv = drawRows x0 y0 (r + 1) rows (drawRow x0 (spriteRow y0 r) row cv) := rfl

/-- The columns of one sprite row are eight different pixels. -/
theorem spriteColumn_inj (x0 : Byte) {c d : Nat} (hc : c < 8) (hd : d < 8) (h : spriteColumn x0 c = spriteColumn x0 d) :
    c = d := by
  have := congrArg Fin.val h
  simp only [spriteColumn] at this
  omega

/-- The rows of one sprite are at most fifteen, and different. -/
theorem spriteRow_inj (y0 : Byte) {r q : Nat} (hr : r < 16) (hq : q < 16) (h : spriteRow y0 r = spriteRow y0 q) :
    r = q := by
  have := congrArg Fin.val h
  simp only [spriteRow] at this
  omega

/-! ## What a row and a sprite do to the display -/

/-- A frame in which exactly the pixels `p` were toggled, and `hit` set where one of them was set (R103). -/
structure Toggled (p : Fin 64 → Fin 32 → Prop) (cv r : Frame × Bool) : Prop where
  on : ∀ px py, p px py → r.1.at px py = !cv.1.at px py
  off : ∀ px py, ¬ p px py → r.1.at px py = cv.1.at px py
  hit : r.2 = true ↔ cv.2 = true ∨ ∃ px py, p px py ∧ cv.1.at px py = true

theorem Toggled.refl (cv : Frame × Bool) : Toggled (fun _ _ => False) cv cv :=
  ⟨fun _ _ h => h.elim, fun _ _ _ => rfl, by simp⟩

theorem toggled_plot (x : Fin 64) (y : Fin 32) (cv : Frame × Bool) :
    Toggled (fun px py => px = x ∧ py = y) cv (plot x y cv) := by
  refine ⟨fun px py h => ?_, fun px py h => ?_, ?_⟩
  · rw [plot_pix, if_pos h]
  · rw [plot_pix, if_neg h]
  · rw [plot_hit, Bool.or_eq_true]
    exact or_congr_right ⟨fun h => ⟨x, y, ⟨rfl, rfl⟩, h⟩, by rintro ⟨px, py, ⟨rfl, rfl⟩, h⟩; exact h⟩

/-- Toggling disjoint sets of pixels one after the other toggles their union. -/
theorem Toggled.trans {p q : Fin 64 → Fin 32 → Prop} {cv r r' : Frame × Bool} (h : Toggled p cv r) (h' : Toggled q r r')
    (disjoint : ∀ px py, p px py → ¬ q px py) : Toggled (fun px py => p px py ∨ q px py) cv r' := by
  refine ⟨fun px py hp => ?_, fun px py hp => ?_, ?_⟩
  · rcases hp with hp | hq
    · rw [h'.off _ _ (disjoint _ _ hp), h.on _ _ hp]
    · rw [h'.on _ _ hq, h.off _ _ fun hp => disjoint _ _ hp hq]
  · rw [h'.off _ _ fun hq => hp (.inr hq), h.off _ _ fun hp' => hp (.inl hp')]
  · rw [h'.hit, h.hit]
    constructor
    · rintro ((h0 | ⟨px, py, hp, hs⟩) | ⟨px, py, hq, hs⟩)
      · exact .inl h0
      · exact .inr ⟨px, py, .inl hp, hs⟩
      · rw [h.off _ _ fun hp => disjoint _ _ hp hq] at hs
        exact .inr ⟨px, py, .inr hq, hs⟩
    · rintro (h0 | ⟨px, py, hp | hq, hs⟩)
      · exact .inl (.inl h0)
      · exact .inl (.inr ⟨px, py, hp, hs⟩)
      · rw [← h.off _ _ fun hp => disjoint _ _ hp hq] at hs
        exact .inr ⟨px, py, hq, hs⟩

theorem Toggled.congr {p q : Fin 64 → Fin 32 → Prop} {cv r : Frame × Bool} (h : Toggled p cv r)
    (e : ∀ px py, q px py ↔ p px py) : Toggled q cv r := by
  have : q = p := funext fun px => funext fun py => propext (e px py)
  exact this ▸ h

/-- The pixels of the first `m` columns of a sprite row drawn at column `x0` on row `y`. -/
def RowCovers (x0 : Byte) (y : Fin 32) (row : Byte) (m : Nat) (px : Fin 64) (py : Fin 32) : Prop :=
  py = y ∧ ∃ c, c < m ∧ spriteBit row c = true ∧ px = spriteColumn x0 c

theorem rowCovers_succ (x0 : Byte) (y : Fin 32) (row : Byte) (m : Nat) (px : Fin 64) (py : Fin 32) :
    RowCovers x0 y row (m + 1) px py ↔
      RowCovers x0 y row m px py ∨ (spriteBit row m = true ∧ px = spriteColumn x0 m ∧ py = y) := by
  constructor
  · rintro ⟨hy, c, hc, hb, hx⟩
    rcases Nat.lt_succ_iff_lt_or_eq.mp hc with hlt | rfl
    · exact .inl ⟨hy, c, hlt, hb, hx⟩
    · exact .inr ⟨hb, hx, hy⟩
  · rintro (⟨hy, c, hc, hb, hx⟩ | ⟨hb, hx, hy⟩)
    · exact ⟨hy, c, by omega, hb, hx⟩
    · exact ⟨hy, m, by omega, hb, hx⟩

theorem toggled_columns (x0 : Byte) (y : Fin 32) (row : Byte) (cv : Frame × Bool) (m : Nat) (hm : m ≤ 8) :
    Toggled (RowCovers x0 y row m) cv
      ((List.range m).foldl (fun cv c => if spriteBit row c then plot (spriteColumn x0 c) y cv else cv) cv) := by
  induction m with
  | zero => exact (Toggled.refl cv).congr fun px py => by simp [RowCovers]
  | succ m ih =>
    rw [List.range_succ, List.foldl_append, List.foldl_cons, List.foldl_nil]
    by_cases hb : spriteBit row m = true
    · rw [if_pos hb]
      refine ((ih (by omega)).trans (toggled_plot ..) ?_).congr fun px py => by simp [rowCovers_succ, hb]
      rintro px py ⟨-, c, hc, -, hx⟩ ⟨hx', -⟩
      have := spriteColumn_inj x0 (by omega) (by omega) (hx.symm.trans hx')
      omega
    · rw [if_neg hb]
      exact (ih (by omega)).congr fun px py => by simp [rowCovers_succ, hb]

/-- One sprite row toggles the pixels under its 1 bits. -/
theorem toggled_drawRow (x0 : Byte) (y : Fin 32) (row : Byte) (cv : Frame × Bool) :
    Toggled (RowCovers x0 y row 8) cv (drawRow x0 y row cv) := toggled_columns x0 y row cv 8 (Nat.le_refl 8)

/-- A sprite of at most 15 rows from row `r` on toggles the pixels under its 1 bits, each once. -/
theorem toggled_drawRows (x0 y0 : Byte) (rows : List Byte) (r : Nat) (hr : r + rows.length ≤ 16) (cv : Frame × Bool) :
    Toggled (fun px py => ∃ k, ∃ h : k < rows.length, RowCovers x0 (spriteRow y0 (r + k)) rows[k] 8 px py) cv
      (drawRows x0 y0 r rows cv) := by
  induction rows generalizing r cv with
  | nil => exact (Toggled.refl cv).congr fun px py => by simp
  | cons row rows ih =>
    simp only [List.length_cons] at hr
    rw [drawRows_cons]
    refine ((toggled_drawRow x0 (spriteRow y0 r) row cv).trans (ih (r + 1) (by omega) _) ?_).congr fun px py => ?_
    · rintro px py ⟨hy, -⟩ ⟨k, hk, hy', -⟩
      have := spriteRow_inj y0 (by omega) (by omega) (hy.symm.trans hy')
      omega
    · constructor
      · rintro ⟨k, hk, h⟩
        cases k with
        | zero => exact .inl h
        | succ k => exact .inr ⟨k, by simpa using hk, by simpa [Nat.add_assoc, Nat.add_comm 1] using h⟩
      · rintro (h | ⟨k, hk, h⟩)
        · exact ⟨0, by simp, h⟩
        · exact ⟨k + 1, by simpa using hk, by simpa [Nat.add_assoc, Nat.add_comm 1] using h⟩

end Sys2Proof.Machine
end

