-- ==== Sys2Proof/Laws/Step.lean ====
section
/-! SUPPORT. What a step can do, said once. -/

namespace Sys2Proof.Machine

/-- The fetch bound (R62). -/
theorem State.fetchOk_iff (s : State) : s.fetchOk = true ↔ s.pc.toNat ≤ 0xFFE := by
  rw [State.fetchOk, Bool.and_eq_true, decide_eq_true_eq, decide_eq_true_eq]
  simp only [memSize]
  omega

/-- The image bound (R131). -/
theorem imageWf_iff (image : List Byte) : imageWf image = true ↔ image.length ≤ 3584 := decide_eq_true_iff

/-- Two bytes joined, the first one high (R41). -/
theorem toNat_joinBytes (hi lo : Byte) : (joinBytes hi lo).toNat = 256 * hi.toNat + lo.toNat := by
  have h := BitVec.toNat_append hi lo
  rw [← Nat.shiftLeft_add_eq_or_of_lt (by omega), Nat.shiftLeft_eq] at h
  exact h.trans (by omega)

/-- A fetch reads memory and pc only. -/
theorem State.fetchWord_congr {s t : State} (hm : Component.agree .mem s t) (hp : t.pc = s.pc) :
    t.fetchWord = s.fetchWord := by
  simp only [State.fetchWord, hp, hm _]

/-- The five cases of a step, in the order of its checks (R61, R118). -/
theorem step_cases (s : State) :
    (∃ f, s.err = some f ∧ step s = .next s) ∨
    (∃ x, s.err = none ∧ s.kw = some x ∧ step s = .next (s.keyWait x)) ∨
    (s.err = none ∧ s.kw = none ∧ 0xFFE < s.pc.toNat ∧ step s = .next (s.latch s.fetchFault)) ∨
    (s.err = none ∧ s.kw = none ∧ s.pc.toNat ≤ 0xFFE ∧ decodeWord s.fetchWord = none ∧
      step s = .next (s.latch s.decodeFault)) ∨
    (∃ i, s.err = none ∧ s.kw = none ∧ s.pc.toNat ≤ 0xFFE ∧ decodeWord s.fetchWord = some i ∧
      step s = exec i s) := by
  unfold step
  cases he : s.err with
  | some f => exact .inl ⟨f, rfl, rfl⟩
  | none =>
    cases hk : s.kw with
    | some x => exact .inr (.inl ⟨x, rfl, rfl, rfl⟩)
    | none =>
      by_cases h : s.fetchOk = true
      · cases hd : decodeWord s.fetchWord with
        | none => exact .inr (.inr (.inr (.inl ⟨rfl, rfl, s.fetchOk_iff.mp h, rfl, by simp [h]⟩)))
        | some i => exact .inr (.inr (.inr (.inr ⟨i, rfl, rfl, s.fetchOk_iff.mp h, rfl, by simp [h]⟩)))
      · refine .inr (.inr (.inl ⟨rfl, rfl, ?_, by simp [h]⟩))
        have := mt s.fetchOk_iff.mpr h
        omega

/-- The two cases of a pending key wait (R65). -/
theorem State.keyWait_cases (s : State) (x : Nibble) :
    ((∀ k, s.keyDown k = false) ∧ s.keyWait x = s) ∨
    (∃ k, s.leastKey = some k ∧ s.keyWait x = (s.setKw none).captureKey x k) := by
  unfold State.keyWait
  cases h : s.leastKey with
  | none => exact .inl ⟨s.leastKey_eq_none.mp h, rfl⟩
  | some k => exact .inr ⟨k, rfl, rfl⟩

end Sys2Proof.Machine
end

