-- ==== Sys2Proof/Laws/PerInstr.lean ====
section
/-! SUPPORT. The family WordOfRow: the word the encoder writes for an instruction is one of the words of its own row of
the opcode map (spec 30_encoding.md R55, R56). One lemma per constructor. -/

namespace Sys2Proof

/-! ## The masks of the opcode map on the bit diagrams of R52 -/

theorem mask_F000_addr (f : Nibble) (a : Addr) :
    ((f ++ a) &&& (0xF000#16 : BitVec (4 + 12))) = f ++ 0#12 := by
  apply BitVec.eq_of_getLsbD_eq
  intro i hi
  simp only [BitVec.getLsbD_and, BitVec.getLsbD_append]
  interval_cases i <;> simp

theorem mask_F000_byte (f x : Nibble) (a : Byte) :
    ((f ++ x ++ a) &&& (0xF000#16 : BitVec (4 + 4 + 8))) = f ++ 0#4 ++ 0#8 := by
  apply BitVec.eq_of_getLsbD_eq
  intro i hi
  simp only [BitVec.getLsbD_and, BitVec.getLsbD_append]
  interval_cases i <;> simp

theorem mask_F0FF (f x : Nibble) (a : Byte) :
    ((f ++ x ++ a) &&& (0xF0FF#16 : BitVec (4 + 4 + 8))) = f ++ 0#4 ++ a := by
  apply BitVec.eq_of_getLsbD_eq
  intro i hi
  simp only [BitVec.getLsbD_and, BitVec.getLsbD_append]
  interval_cases i <;> simp

theorem mask_F00F (f x y n : Nibble) :
    ((f ++ x ++ y ++ n) &&& (0xF00F#16 : BitVec (4 + 4 + 4 + 4))) = f ++ 0#4 ++ 0#4 ++ n := by
  apply BitVec.eq_of_getLsbD_eq
  intro i hi
  simp only [BitVec.getLsbD_and, BitVec.getLsbD_append]
  interval_cases i <;> simp

theorem mask_F000_nibbles (f x y n : Nibble) :
    ((f ++ x ++ y ++ n) &&& (0xF000#16 : BitVec (4 + 4 + 4 + 4))) = f ++ 0#4 ++ 0#4 ++ 0#4 := by
  apply BitVec.eq_of_getLsbD_eq
  intro i hi
  simp only [BitVec.getLsbD_and, BitVec.getLsbD_append]
  interval_cases i <;> simp

end Sys2Proof

namespace Sys2Proof.Laws.WordOfRow

/-- The word of `i` is selected by the row of the opcode map that bears the mnemonic of `i`. -/
def Statement (i : Instr) : Prop := ∃ r ∈ opcodeTable, r.mnemonic = i.mnemonic ∧ r.selects (encode i) = true

theorem cls : Statement .cls :=
  ⟨opcodeTable[0], List.getElem_mem _, rfl, by decide⟩

theorem ret : Statement .ret :=
  ⟨opcodeTable[1], List.getElem_mem _, rfl, by decide⟩

theorem jp (nnn : Addr) : Statement (.jp nnn) :=
  ⟨opcodeTable[2], List.getElem_mem _, rfl, beq_iff_eq.mpr ((mask_F000_addr ..).trans (by decide))⟩

theorem call (nnn : Addr) : Statement (.call nnn) :=
  ⟨opcodeTable[3], List.getElem_mem _, rfl, beq_iff_eq.mpr ((mask_F000_addr ..).trans (by decide))⟩

theorem seImm (x : Nibble) (nn : Byte) : Statement (.seImm x nn) :=
  ⟨opcodeTable[4], List.getElem_mem _, rfl, beq_iff_eq.mpr ((mask_F000_byte ..).trans (by decide))⟩

theorem sneImm (x : Nibble) (nn : Byte) : Statement (.sneImm x nn) :=
  ⟨opcodeTable[5], List.getElem_mem _, rfl, beq_iff_eq.mpr ((mask_F000_byte ..).trans (by decide))⟩

theorem seReg (x y : Nibble) : Statement (.seReg x y) :=
  ⟨opcodeTable[6], List.getElem_mem _, rfl, beq_iff_eq.mpr ((mask_F00F ..).trans (by decide))⟩

theorem ldImm (x : Nibble) (nn : Byte) : Statement (.ldImm x nn) :=
  ⟨opcodeTable[7], List.getElem_mem _, rfl, beq_iff_eq.mpr ((mask_F000_byte ..).trans (by decide))⟩

theorem addImm (x : Nibble) (nn : Byte) : Statement (.addImm x nn) :=
  ⟨opcodeTable[8], List.getElem_mem _, rfl, beq_iff_eq.mpr ((mask_F000_byte ..).trans (by decide))⟩

theorem ldReg (x y : Nibble) : Statement (.ldReg x y) :=
  ⟨opcodeTable[9], List.getElem_mem _, rfl, beq_iff_eq.mpr ((mask_F00F ..).trans (by decide))⟩

theorem orReg (x y : Nibble) : Statement (.orReg x y) :=
  ⟨opcodeTable[10], List.getElem_mem _, rfl, beq_iff_eq.mpr ((mask_F00F ..).trans (by decide))⟩

theorem andReg (x y : Nibble) : Statement (.andReg x y) :=
  ⟨opcodeTable[11], List.getElem_mem _, rfl, beq_iff_eq.mpr ((mask_F00F ..).trans (by decide))⟩

theorem xorReg (x y : Nibble) : Statement (.xorReg x y) :=
  ⟨opcodeTable[12], List.getElem_mem _, rfl, beq_iff_eq.mpr ((mask_F00F ..).trans (by decide))⟩

theorem addReg (x y : Nibble) : Statement (.addReg x y) :=
  ⟨opcodeTable[13], List.getElem_mem _, rfl, beq_iff_eq.mpr ((mask_F00F ..).trans (by decide))⟩

theorem subReg (x y : Nibble) : Statement (.subReg x y) :=
  ⟨opcodeTable[14], List.getElem_mem _, rfl, beq_iff_eq.mpr ((mask_F00F ..).trans (by decide))⟩

theorem shrReg (x y : Nibble) : Statement (.shrReg x y) :=
  ⟨opcodeTable[15], List.getElem_mem _, rfl, beq_iff_eq.mpr ((mask_F00F ..).trans (by decide))⟩

theorem subnReg (x y : Nibble) : Statement (.subnReg x y) :=
  ⟨opcodeTable[16], List.getElem_mem _, rfl, beq_iff_eq.mpr ((mask_F00F ..).trans (by decide))⟩

theorem shlReg (x y : Nibble) : Statement (.shlReg x y) :=
  ⟨opcodeTable[17], List.getElem_mem _, rfl, beq_iff_eq.mpr ((mask_F00F ..).trans (by decide))⟩

theorem sneReg (x y : Nibble) : Statement (.sneReg x y) :=
  ⟨opcodeTable[18], List.getElem_mem _, rfl, beq_iff_eq.mpr ((mask_F00F ..).trans (by decide))⟩

theorem ldI (nnn : Addr) : Statement (.ldI nnn) :=
  ⟨opcodeTable[19], List.getElem_mem _, rfl, beq_iff_eq.mpr ((mask_F000_addr ..).trans (by decide))⟩

theorem jpV0 (nnn : Addr) : Statement (.jpV0 nnn) :=
  ⟨opcodeTable[20], List.getElem_mem _, rfl, beq_iff_eq.mpr ((mask_F000_addr ..).trans (by decide))⟩

theorem rnd (x : Nibble) (nn : Byte) : Statement (.rnd x nn) :=
  ⟨opcodeTable[21], List.getElem_mem _, rfl, beq_iff_eq.mpr ((mask_F000_byte ..).trans (by decide))⟩

theorem drw (x y n : Nibble) : Statement (.drw x y n) :=
  ⟨opcodeTable[22], List.getElem_mem _, rfl, beq_iff_eq.mpr ((mask_F000_nibbles ..).trans (by decide))⟩

theorem skp (x : Nibble) : Statement (.skp x) :=
  ⟨opcodeTable[23], List.getElem_mem _, rfl, beq_iff_eq.mpr ((mask_F0FF ..).trans (by decide))⟩

theorem sknp (x : Nibble) : Statement (.sknp x) :=
  ⟨opcodeTable[24], List.getElem_mem _, rfl, beq_iff_eq.mpr ((mask_F0FF ..).trans (by decide))⟩

theorem ldVxDt (x : Nibble) : Statement (.ldVxDt x) :=
  ⟨opcodeTable[25], List.getElem_mem _, rfl, beq_iff_eq.mpr ((mask_F0FF ..).trans (by decide))⟩

theorem ldVxKey (x : Nibble) : Statement (.ldVxKey x) :=
  ⟨opcodeTable[26], List.getElem_mem _, rfl, beq_iff_eq.mpr ((mask_F0FF ..).trans (by decide))⟩

theorem ldDtVx (x : Nibble) : Statement (.ldDtVx x) :=
  ⟨opcodeTable[27], List.getElem_mem _, rfl, beq_iff_eq.mpr ((mask_F0FF ..).trans (by decide))⟩

theorem ldStVx (x : Nibble) : Statement (.ldStVx x) :=
  ⟨opcodeTable[28], List.getElem_mem _, rfl, beq_iff_eq.mpr ((mask_F0FF ..).trans (by decide))⟩

theorem addI (x : Nibble) : Statement (.addI x) :=
  ⟨opcodeTable[29], List.getElem_mem _, rfl, beq_iff_eq.mpr ((mask_F0FF ..).trans (by decide))⟩

theorem ldFont (x : Nibble) : Statement (.ldFont x) :=
  ⟨opcodeTable[30], List.getElem_mem _, rfl, beq_iff_eq.mpr ((mask_F0FF ..).trans (by decide))⟩

theorem ldBcd (x : Nibble) : Statement (.ldBcd x) :=
  ⟨opcodeTable[31], List.getElem_mem _, rfl, beq_iff_eq.mpr ((mask_F0FF ..).trans (by decide))⟩

theorem storeRegs (x : Nibble) : Statement (.storeRegs x) :=
  ⟨opcodeTable[32], List.getElem_mem _, rfl, beq_iff_eq.mpr ((mask_F0FF ..).trans (by decide))⟩

theorem loadRegs (x : Nibble) : Statement (.loadRegs x) :=
  ⟨opcodeTable[33], List.getElem_mem _, rfl, beq_iff_eq.mpr ((mask_F0FF ..).trans (by decide))⟩

end Sys2Proof.Laws.WordOfRow
end

