-- ==== Sys2Proof/Tests/Slice0.lean ====
section
/-! SUPPORT. The model's own tests. Expected results are those of spec/95_test_vectors.md (the S and V numbers) or of the
rule named; the words are written out from the encodings of 30_encoding.md. Then the refused ill-formed terms, and one
witness for the hypotheses of each statement. -/

namespace Sys2Proof.Tests

open Sys2Proof.Machine

/-! ## Helpers -/

/-- The next state of a result, or the state at creation where there is none. -/
def got (r : Result) : State :=
  match r with
  | .next t => t
  | .fault _ => State.reset
  | .refused _ => State.reset

/-- The state at creation with the general registers `vs`. -/
def regs (vs : List (Nibble × Byte)) : State := vs.foldl (fun s p => s.writeV p.1 p.2) State.reset

/-- One step of the word `w` placed where `s` fetches. -/
def run (s : State) (w : Nat) : State := got (step (s.withFetchWord 16 w))

/-- The registers `rs` after the step, as numbers. -/
def vAfter (s : State) (w : Nat) (rs : List Nibble) : List Nat := rs.map fun r => ((run s w).readV r).toNat

/-- `n` bytes of memory from `a`, as numbers. -/
def bytesAt (s : State) (a n : Nat) : List Nat := (s.readBytes a n).map BitVec.toNat

/-- The set pixels of row `y`, as columns. -/
def setColumns (s : State) (y : Fin 32) : List Nat :=
  (List.range 64).filter fun c => if h : c < 64 then s.pix.at ⟨c, h⟩ y else false

/-- The keys `ks` pressed. -/
def pressed (ks : List Nat) : Keys := Vector.ofFn fun k : Fin 16 => ks.contains k.val

/-- The other parameters of R8, with the default font. -/
def withConfig (m : ShiftMode) (f : VfOrder) (s : State) : State := { s with cfg := { s.cfg with shiftMode := m, vfOrder := f } }

/-! ## Well-formedness: each check refuses an ill-formed term (R57, R131) -/

/-- V6. -/
theorem test_wf_family_0 :
    wordWf 0x0123 = false ∧ wordWf 0x00E0 = true := by decide

/-- V7. -/
theorem test_wf_family_5 :
    wordWf 0x5121 = false ∧ wordWf 0x5120 = true := by decide

/-- V8. -/
theorem test_wf_family_8 :
    wordWf 0x801D = false ∧ wordWf 0x801E = true ∧ wordWf 0x8018 = false := by decide

/-- V7. -/
theorem test_wf_family_9 :
    wordWf 0x912F = false ∧ wordWf 0x9120 = true := by decide

/-- V9. -/
theorem test_wf_family_E :
    wordWf 0xE09F = false ∧ wordWf 0xE09E = true := by decide

/-- V10. -/
theorem test_wf_family_F :
    wordWf 0xF075 = false ∧ wordWf 0xF065 = true := by decide

/-- V131, V132. -/
theorem test_wf_image_too_large :
    imageWf (List.replicate 3585 0xAA) = false ∧ imageWf (List.replicate 3584 0xAA) = true :=
  ⟨decide_eq_false (by rw [List.length_replicate]; decide), decide_eq_true (Nat.le_of_eq List.length_replicate)⟩

/-! ## Decoding: every constructor's word, written out from the patterns of R56 -/

theorem test_decode_cls : decodeTableWord 16 0b0000000011100000 = some (.cls) := by decide
theorem test_decode_ret : decodeTableWord 16 0b0000000011101110 = some (.ret) := by decide
theorem test_decode_jp : decodeTableWord 16 0b0001001000110100 = some (.jp 0x234) := by decide
theorem test_decode_call : decodeTableWord 16 0b0010001100000001 = some (.call 0x301) := by decide
theorem test_decode_seImm : decodeTableWord 16 0b0011001100010000 = some (.seImm 3 0x10) := by decide
theorem test_decode_sneImm : decodeTableWord 16 0b0100001100010001 = some (.sneImm 3 0x11) := by decide
theorem test_decode_seReg : decodeTableWord 16 0b0101000100100000 = some (.seReg 1 2) := by decide
theorem test_decode_ldImm : decodeTableWord 16 0b0110101000101011 = some (.ldImm 0xA 0x2B) := by decide
theorem test_decode_addImm : decodeTableWord 16 0b0111000000000101 = some (.addImm 0 5) := by decide
theorem test_decode_ldReg : decodeTableWord 16 0b1000000000010000 = some (.ldReg 0 1) := by decide
theorem test_decode_orReg : decodeTableWord 16 0b1000000000010001 = some (.orReg 0 1) := by decide
theorem test_decode_andReg : decodeTableWord 16 0b1000000000010010 = some (.andReg 0 1) := by decide
theorem test_decode_xorReg : decodeTableWord 16 0b1000000000010011 = some (.xorReg 0 1) := by decide
theorem test_decode_addReg : decodeTableWord 16 0b1000000000010100 = some (.addReg 0 1) := by decide
theorem test_decode_subReg : decodeTableWord 16 0b1000000000010101 = some (.subReg 0 1) := by decide
theorem test_decode_shrReg : decodeTableWord 16 0b1000000000010110 = some (.shrReg 0 1) := by decide
theorem test_decode_subnReg : decodeTableWord 16 0b1000000000010111 = some (.subnReg 0 1) := by decide
theorem test_decode_shlReg : decodeTableWord 16 0b1000000000011110 = some (.shlReg 0 1) := by decide
theorem test_decode_sneReg : decodeTableWord 16 0b1001000100100000 = some (.sneReg 1 2) := by decide
theorem test_decode_ldI : decodeTableWord 16 0b1010001100000000 = some (.ldI 0x300) := by decide
theorem test_decode_jpV0 : decodeTableWord 16 0b1011001100000000 = some (.jpV0 0x300) := by decide
theorem test_decode_rnd : decodeTableWord 16 0b1100001100001111 = some (.rnd 3 0x0F) := by decide
theorem test_decode_drw : decodeTableWord 16 0b1101000000010101 = some (.drw 0 1 5) := by decide
theorem test_decode_skp : decodeTableWord 16 0b1110010110011110 = some (.skp 5) := by decide
theorem test_decode_sknp : decodeTableWord 16 0b1110010110100001 = some (.sknp 5) := by decide
theorem test_decode_ldVxDt : decodeTableWord 16 0b1111000100000111 = some (.ldVxDt 1) := by decide
theorem test_decode_ldVxKey : decodeTableWord 16 0b1111001100001010 = some (.ldVxKey 3) := by decide
theorem test_decode_ldDtVx : decodeTableWord 16 0b1111000100010101 = some (.ldDtVx 1) := by decide
theorem test_decode_ldStVx : decodeTableWord 16 0b1111001000011000 = some (.ldStVx 2) := by decide
theorem test_decode_addI : decodeTableWord 16 0b1111001000011110 = some (.addI 2) := by decide
theorem test_decode_ldFont : decodeTableWord 16 0b1111000000101001 = some (.ldFont 0) := by decide
theorem test_decode_ldBcd : decodeTableWord 16 0b1111010000110011 = some (.ldBcd 4) := by decide
theorem test_decode_storeRegs : decodeTableWord 16 0b1111000101010101 = some (.storeRegs 1) := by decide
theorem test_decode_loadRegs : decodeTableWord 16 0b1111001001100101 = some (.loadRegs 2) := by decide

/-- V6 to V10. -/
theorem test_decode_rejects :
    [0x0000, 0x0123, 0x00E1, 0x5121, 0x912F, 0x8018, 0x801F, 0xE0A2, 0xF01F, 0xFFFF].all (fun w => decodeTableWord 16 w == none) = true := by decide

/-- An instruction has 2 bytes (R51). -/
theorem test_decode_truncated :
    decode [0x60] = .error (.truncated 1) := rfl

/-- P1's image, and DB (R60). -/
theorem test_assemble_p1 :
    assemble [.op (.ldImm 0 0x0A), .op (.addImm 0 5), .db 0xFF] = [0x60, 0x0A, 0x70, 0x05, 0xFF] := by decide

/-! ## Fetch, decode and the error latch -/

/-- V1. -/
theorem test_last_legal_fetch :
    (run { regs [] with pc := 0xFFE } 0x6007).readV 0 = 7 ∧ (run { regs [] with pc := 0xFFE } 0x6007).pc = 0x1000 := by decide

/-- V3. -/
theorem test_fetch_out_of_bounds :
    (got (step { regs [] with pc := 0xFFF })).err = some (.outOfBounds .fetch 0xFFF 0xFFF) := by decide

/-- V4. -/
theorem test_odd_pc_is_fetched :
    (run { regs [] with pc := 0x201 } 0x6123).readV 1 = 0x23 ∧ (run { regs [] with pc := 0x201 } 0x6123).pc = 0x203 := by decide

/-- V5. -/
theorem test_step_before_load :
    (got (step State.reset)).err = some (.unknownOpcode 0 0x200) := by decide

/-- V11. -/
theorem test_halted_step :
    step { regs [] with err := some (.unknownOpcode 0x0123 0x200) } =
      .next { regs [] with err := some (.unknownOpcode 0x0123 0x200) } := rfl

/-- The codes of R112. -/
theorem test_fault_codes :
    [Fault.outOfBounds .memory 0 0, .unknownOpcode 0 0, .loadTooLarge 0].map Fault.code = [1, 2, 3] := by decide

/-! ## Control transfer -/

/-- V15. -/
theorem test_jp :
    (run (regs []) 0x1234).pc = 0x234 := by decide

/-- V19, S12. -/
theorem test_call :
    (run { regs [] with sp := 15 } 0x2300).pc = 0x300 ∧ (run { regs [] with sp := 15 } 0x2300).sp = 16 ∧
      (run { regs [] with sp := 15 } 0x2300).top = 0x200 := by decide

/-- V20. -/
theorem test_call_overflow :
    (run { regs [] with sp := 16, pc := 0x250 } 0x2300).err = some (.outOfBounds .stackOverflow 0x250 0x250) ∧
      (run { regs [] with sp := 16, pc := 0x250 } 0x2300).pc = 0x250 := by decide

/-- V21. -/
theorem test_ret :
    (run { (regs []).push (by decide) 0x200 with pc := 0x300 } 0x00EE).pc = 0x202 ∧
      (run { (regs []).push (by decide) 0x200 with pc := 0x300 } 0x00EE).sp = 0 := by decide

/-- V22. -/
theorem test_ret_underflow :
    (run { regs [] with pc := 0x300 } 0x00EE).err = some (.outOfBounds .stackUnderflow 0x300 0x300) := by decide

/-- V26. -/
theorem test_jpV0_not_masked :
    (run (regs [(0, 0xFF)]) 0xBFFF).pc = 0x10FE := by decide

/-- V28. -/
theorem test_jpV0_uses_V0 :
    (run (regs [(0, 0x05), (3, 0x09)]) 0xB300).pc = 0x305 := by decide

/-- V29, V30. -/
theorem test_seImm :
    (run (regs [(3, 0x10)]) 0x3310).pc = 0x204 ∧ (run (regs [(3, 0x11)]) 0x3310).pc = 0x202 := by decide

/-- V31, V32. -/
theorem test_sneImm :
    (run (regs [(3, 0x10)]) 0x4310).pc = 0x202 ∧ (run (regs [(3, 0)]) 0x4310).pc = 0x204 := by decide

/-- V33, V34. -/
theorem test_seReg :
    (run (regs [(1, 7), (2, 7)]) 0x5120).pc = 0x204 ∧ (run (regs [(1, 7), (2, 8)]) 0x5120).pc = 0x202 := by decide

/-- V36, V37. -/
theorem test_sneReg :
    (run (regs [(1, 7), (2, 8)]) 0x9120).pc = 0x204 ∧ (run (regs [(1, 7)]) 0x9110).pc = 0x202 := by decide

/-! ## Register arithmetic and logic -/

/-- S1, V40. -/
theorem test_ldImm :
    vAfter (regs [(0xF, 0x42)]) 0x6F07 [0xF] = [7] ∧
      vAfter (regs []) 0x6A2B [0xA] = [0x2B] := by decide

/-- S2, V41. -/
theorem test_addImm :
    vAfter (regs [(0, 0xFA)]) 0x700A [0] = [4] ∧
      vAfter (regs [(0, 0xFF), (0xF, 0x42)]) 0x7001 [0, 0xF] = [0, 0x42] := by decide

/-- V45. -/
theorem test_ldReg :
    vAfter (regs [(1, 0x33), (0xF, 0x42)]) 0x8010 [0, 1, 0xF] = [0x33, 0x33, 0x42] := by decide

/-- V46. -/
theorem test_orReg :
    vAfter (regs [(0, 0xF0), (1, 0x0F), (0xF, 0x77)]) 0x8011 [0, 0xF] = [0xFF, 0x77] := by decide

/-- V47. -/
theorem test_andReg :
    vAfter (regs [(0, 0xF0), (1, 0x3C), (0xF, 0x77)]) 0x8012 [0, 0xF] = [0x30, 0x77] := by decide

/-- V48. -/
theorem test_xorReg :
    vAfter (regs [(0, 0xF0), (1, 0x3C), (0xF, 0x77)]) 0x8013 [0, 0xF] = [0xCC, 0x77] := by decide

/-- S3, V53. -/
theorem test_addReg_carry :
    vAfter (regs [(0, 0xFF), (1, 1)]) 0x8014 [0, 0xF] = [0, 1] ∧
      vAfter (regs [(0, 0x80), (0xF, 0x80)]) 0x80F4 [0, 0xF] = [0, 1] := by decide

/-- V54, both orders. -/
theorem test_addReg_to_vf :
    vAfter (regs [(0xF, 0xFF), (1, 1)]) 0x8F14 [0xF] = [0] ∧
      vAfter (withConfig .table .flagLast (regs [(0xF, 0xFF), (1, 1)])) 0x8F14 [0xF] = [1] := by decide

/-- S5, S6. -/
theorem test_subReg :
    vAfter (regs [(0, 1), (1, 2)]) 0x8015 [0, 0xF] = [0xFF, 0] ∧
      vAfter (regs [(0, 5), (1, 2)]) 0x8015 [0, 0xF] = [3, 1] := by decide

/-- V59, both orders. -/
theorem test_subReg_to_vf :
    vAfter (regs [(0xF, 5), (0, 2)]) 0x8F05 [0xF] = [3] ∧
      vAfter (withConfig .table .flagLast (regs [(0xF, 5), (0, 2)])) 0x8F05 [0xF] = [1] := by decide

/-- V64: TABLE, VY, VX. -/
theorem test_shrReg_modes :
    vAfter (regs [(0, 0x10), (1, 3)]) 0x8016 [0, 0xF] = [1, 1] ∧
      vAfter (withConfig .vy .flagFirst (regs [(0, 0x10), (1, 3)])) 0x8016 [0, 0xF] = [1, 1] ∧
      vAfter (withConfig .vx .flagFirst (regs [(0, 0x10), (1, 3)])) 0x8016 [0, 0xF] = [8, 0] := by decide

/-- V67, both orders. -/
theorem test_shrReg_to_vf :
    vAfter (regs [(0, 6), (0xF, 0x55)]) 0x8F06 [0xF] = [3] ∧
      vAfter (withConfig .table .flagLast (regs [(0, 6), (0xF, 0x55)])) 0x8F06 [0xF] = [0] := by decide

/-- V60, V61. -/
theorem test_subnReg :
    vAfter (regs [(0, 5), (1, 2)]) 0x8017 [0, 0xF] = [0xFD, 0] ∧
      vAfter (regs [(0, 2), (1, 5)]) 0x8017 [0, 0xF] = [3, 1] := by decide

/-- V63, both orders. -/
theorem test_subnReg_to_vf :
    vAfter (regs [(0xF, 1), (0, 3)]) 0x8F07 [0xF] = [2] ∧
      vAfter (withConfig .table .flagLast (regs [(0xF, 1), (0, 3)])) 0x8F07 [0xF] = [1] := by decide

/-- V68: TABLE, VY, VX. -/
theorem test_shlReg_modes :
    vAfter (regs [(0, 0x10), (1, 0x81)]) 0x801E [0, 0xF] = [0x20, 0] ∧
      vAfter (withConfig .vy .flagFirst (regs [(0, 0x10), (1, 0x81)])) 0x801E [0, 0xF] = [2, 1] ∧
      vAfter (withConfig .vx .flagFirst (regs [(0, 0x10), (1, 0x81)])) 0x801E [0, 0xF] = [0x20, 0] := by decide

/-- V71, both orders. -/
theorem test_shlReg_to_vf :
    vAfter (regs [(0xF, 0x81)]) 0x8F0E [0xF] = [2] ∧
      vAfter (withConfig .table .flagLast (regs [(0xF, 0x81)])) 0x8F0E [0xF] = [1] := by decide

/-- V72, V75, for the value drawn. -/
theorem test_rnd :
    ((regs []).rndWith 0xA7 3 0x0F).readV 3 = 7 ∧ ((regs [(0xF, 1)]).rndWith 0x3C 0xF 0x0F).readV 0xF = 0x0C := by decide

/-- V73. -/
theorem test_rnd_always_draws :
    (run (regs []) 0xC300).draws = 1 ∧ (run (regs []) 0xC300).pc = 0x202 := by decide

/-! ## Index register and memory -/

/-- V76. -/
theorem test_ldI :
    (run (regs []) 0xAFFF).i = 0xFFF := by decide

/-- V78, V79. -/
theorem test_addI_wraps :
    (run { regs [(0, 1)] with i := 0xFFFF } 0xF01E).i = 0 ∧ (run { regs [(0, 1)] with i := 0xFFF } 0xF01E).i = 0x1000 := by decide

/-- V81, V84. -/
theorem test_ldFont :
    (run (regs [(0, 0x0A)]) 0xF029).i = 0x82 ∧ (run (regs [(0, 0xFF)]) 0xF029).i = 0x54B := by decide

/-- S10, V88. -/
theorem test_ldBcd :
    bytesAt (run { regs [(4, 156)] with i := 0x300 } 0xF433) 0x300 3 = [1, 5, 6] ∧
      bytesAt (run { regs [(0, 123)] with i := 0xFFD } 0xF033) 0xFFD 3 = [1, 2, 3] := by decide

/-- V89, V90. -/
theorem test_ldBcd_out_of_bounds :
    (run { regs [(0, 123)] with i := 0xFFE } 0xF033).err = some (.outOfBounds .memory 0x1000 0x200) ∧
      (run { regs [] with i := 0x2000 } 0xF033).err = some (.outOfBounds .memory 0x2000 0x200) := by decide

/-- R98's example. -/
theorem test_storeRegs :
    bytesAt (run { regs [(0, 1), (1, 2)] with i := 0x300 } 0xF155) 0x300 3 = [1, 2, 0] ∧
      (run { regs [(0, 1), (1, 2)] with i := 0x300 } 0xF155).i = 0x300 := by decide

/-- V91, V92. -/
theorem test_storeRegs_bounds :
    bytesAt (run { regs [(0xF, 0x1F)] with i := 0xFF0 } 0xFF55) 0xFFF 1 = [0x1F] ∧
      (run { regs [] with i := 0xFF1 } 0xFF55).err = some (.outOfBounds .memory 0x1000 0x200) := by decide

/-- R99's example. -/
theorem test_loadRegs :
    vAfter ({ regs [(3, 9)] with i := 0x300 }.writeBytes 0x300 [1, 5, 6, 7]) 0xF265 [0, 1, 2, 3] = [1, 5, 6, 9] := by decide

/-- V94. -/
theorem test_loadRegs_out_of_bounds :
    (run { regs [(0, 7)] with i := 0x1000 } 0xF065).err = some (.outOfBounds .memory 0x1000 0x200) ∧
      (run { regs [(0, 7)] with i := 0x1000 } 0xF065).readV 0 = 7 := by decide

/-- V96: the next fetch reads the bytes just stored. -/
theorem test_self_modifying :
    (run { regs [(0, 0x12), (1, 0)] with i := 0x202 } 0xF155).fetchWord = 0x1200 := by decide

/-- A byte written back to what it was at creation is not listed. -/
theorem test_memory_is_canonical :
    Memory.write standardFont [] 0x300 0 = [] ∧ Memory.write standardFont [] 0x050 0xF0 = [] ∧
      Memory.write standardFont [(0x300, 1)] 0x200 2 = [(0x200, 2), (0x300, 1)] := by decide

/-! ## Display -/

/-- V97. -/
theorem test_cls :
    setColumns (run { regs [] with pix := Frame.blank.toggle 5 0 } 0x00E0) 0 = [] ∧ (run (regs []) 0x00E0).dirty = true := by decide

/-- S9. -/
theorem test_drw_wraps :
    setColumns (run ({ regs [(0, 60)] with i := 0x300 }.writeBytes 0x300 [0xFF]) 0xD011) 0 =
      [0, 1, 2, 3, 60, 61, 62, 63] := by decide

/-- V102. -/
theorem test_drw_collision :
    setColumns (run ({ regs [] with i := 0x300, pix := Frame.blank.toggle 1 0 }.writeBytes 0x300 [0xC0]) 0xD011) 0 = [0] ∧
      vAfter ({ regs [] with i := 0x300, pix := Frame.blank.toggle 1 0 }.writeBytes 0x300 [0xC0]) 0xD011 [0xF] = [1] := by decide

/-- V99. -/
theorem test_drw_bit_order :
    setColumns (run ({ regs [] with i := 0x300 }.writeBytes 0x300 [0x01]) 0xD011) 0 = [7] := by decide

/-- V107. -/
theorem test_drw_out_of_bounds :
    (run { regs [(0xF, 5)] with i := 0xFFE } 0xD013).err = some (.outOfBounds .memory 0x1000 0x200) ∧
      (run { regs [(0xF, 5)] with i := 0xFFE } 0xD013).dirty = false := by decide

/-- V105. -/
theorem test_drw_no_rows :
    (run { regs [(0xF, 1)] with i := 0x5000 } 0xD010).err = none ∧
      (run { regs [(0xF, 1)] with i := 0x5000 } 0xD010).readV 0xF = 0 ∧
      (run { regs [(0xF, 1)] with i := 0x5000 } 0xD010).dirty = true := by decide

/-! ## Keys and timers -/

/-- V110, V111. -/
theorem test_skp :
    (run { regs [(5, 7)] with key := pressed [7] } 0xE59E).pc = 0x204 ∧
      (run { regs [(5, 7)] with key := pressed [7] } 0xE59E).keyDown 7 = false ∧ (run (regs [(5, 7)]) 0xE59E).pc = 0x202 := by decide

/-- V115. -/
theorem test_skp_bad_key :
    (run (regs [(0, 0x10)]) 0xE09E).err = some (.outOfBounds .keyIndex 0x10 0x200) := by decide

/-- V113, V114. -/
theorem test_sknp :
    (run { regs [(5, 7)] with key := pressed [7] } 0xE5A1).pc = 0x202 ∧
      (run { regs [(5, 7)] with key := pressed [7] } 0xE5A1).keyDown 7 = false ∧ (run (regs [(5, 7)]) 0xE5A1).pc = 0x204 := by decide

/-- V116. -/
theorem test_sknp_bad_key :
    (run (regs [(0, 0xFF)]) 0xE0A1).err = some (.outOfBounds .keyIndex 0xFF 0x200) := by decide

/-- V117. -/
theorem test_ldVxKey_captures :
    (run { regs [] with key := pressed [3, 9] } 0xF20A).readV 2 = 3 ∧
      (run { regs [] with key := pressed [3, 9] } 0xF20A).key = pressed [9] := by decide

/-- V118. -/
theorem test_ldVxKey_waits :
    (run (regs []) 0xF30A).kw = some 3 ∧ (run (regs []) 0xF30A).pc = 0x200 := by decide

/-- V120. -/
theorem test_pending_wait_captures :
    (got (step { regs [] with kw := some 3, key := pressed [9] })).readV 3 = 9 ∧
      (got (step { regs [] with kw := some 3, key := pressed [9] })).kw = none ∧
      (got (step { regs [] with kw := some 3, key := pressed [9] })).pc = 0x202 := by decide

/-- V122. -/
theorem test_ldVxDt :
    (run { regs [] with dt := 0x3C } 0xF107).readV 1 = 0x3C := by decide

/-- V123. -/
theorem test_ldDtVx :
    (run (regs [(1, 0x3C)]) 0xF115).dt = 0x3C := by decide

/-- V124. -/
theorem test_ldStVx :
    (run (regs [(2, 5)]) 0xF218).st = 5 := by decide

/-! ## Host transactions -/

/-- V12, S14. -/
theorem test_tick :
    (tick { regs [] with dt := 2, st := 1 }).1.dt = 1 ∧ (tick { regs [] with dt := 2, st := 1 }).1.st = 0 ∧
      (tick { regs [] with dt := 2, st := 1 }).2 = true ∧ (tick (regs [])).2 = false := by decide

/-- V13. -/
theorem test_set_input :
    (setInput (pressed [5]) { regs [] with err := some (.unknownOpcode 0 0) }).keyDown 5 = true := by decide

/-- V109. -/
theorem test_read_frame :
    (readFrame { regs [] with dirty := true }).1.dirty = false := by decide

/-- V134. -/
theorem test_load :
    bytesAt (load [0x60, 0x0A] State.reset).1 0x1FF 4 = [0, 0x60, 0x0A, 0] ∧ (load [0x60, 0x0A] State.reset).1.pc = 0x200 := by decide

/-- V132. -/
theorem test_load_too_large :
    (load (List.replicate 3585 0xAA) State.reset).2 = some (.loadTooLarge 3585) := by
  unfold load
  rw [test_wf_image_too_large.1]
  exact congrArg (fun n => some (Fault.loadTooLarge n)) List.length_replicate

/-- Glyph 9 (R28). -/
theorem test_font_at_creation :
    bytesAt State.reset 0x07D 5 = [0xF0, 0x90, 0xF0, 0x10, 0xF0] ∧ bytesAt State.reset 0x0A0 1 = [0] := by decide

/-- R32, R124. -/
theorem test_status_sound :
    (State.status { regs [] with st := 1 }).soundActive = true ∧ State.reset.status.soundActive = false := by decide

/-! ## Witnesses: for each statement of Certificates/Slice0/Obligations.lean with hypotheses, states and operands that meet
them, at the boundaries of the ranges its clauses name -/

/-- A word that two names of one row select (NoTwoRowsSelectOneWord). -/
theorem witness_row_selects : ∃ r ∈ opcodeTable, r.selects 0xD12F = true ∧ r.mnemonic = "DXYN" :=
  ⟨opcodeTable[22], List.getElem_mem _, by decide, rfl⟩

/-- EncodeOfDecode. -/
theorem witness_decodes : decodeWord 0x6A2B = some (.ldImm 0xA 0x2B) := by decide

/-- Both clauses of DecoderConsumesTwoBytes. -/
theorem witness_two_bytes :
    (0x6A2B#16).toNat = 256 * (0x6A#8).toNat + (0x2B#8).toNat ∧ decodeWord 0x6A2B = some (.ldImm 0xA 0x2B) ∧
    (0x5121#16).toNat = 256 * (0x51#8).toNat + (0x21#8).toNat ∧ decodeWord 0x5121 = none := by decide

/-- Both sides of the fetch bound (FetchReadsTwoBytesBigEndian). -/
theorem witness_fetch_bound :
    Ready { regs [] with pc := 0xFFE } ∧ ({ regs [] with pc := 0xFFE } : State).pc.toNat ≤ 0xFFE ∧
    Ready { regs [] with pc := 0xFFF } ∧ 0xFFE < ({ regs [] with pc := 0xFFF } : State).pc.toNat :=
  ⟨⟨rfl, rfl⟩, by decide, ⟨rfl, rfl⟩, by decide⟩

/-- A state whose bytes at pc decode (StepRunsTheDecodedInstruction, and the first clause of StepDecodesByTheOpcodeMap). -/
theorem witness_ready_to_run :
    Ready ((regs []).withFetchWord 16 0x6A2B) ∧ ((regs []).withFetchWord 16 0x6A2B).pc.toNat ≤ 0xFFE ∧
    decode [((regs []).withFetchWord 16 0x6A2B).readByte 0x200, ((regs []).withFetchWord 16 0x6A2B).readByte 0x201] =
      .ok (.ldImm 0xA 0x2B, []) ∧
    (0x6A2B#16).toNat = 256 * (((regs []).withFetchWord 16 0x6A2B).readByte 0x200).toNat +
      (((regs []).withFetchWord 16 0x6A2B).readByte 0x201).toNat :=
  ⟨⟨rfl, rfl⟩, by decide, rfl, by decide⟩

/-- A state whose word at pc no row selects (second clause of StepDecodesByTheOpcodeMap). -/
theorem witness_illegal_word :
    Ready State.reset ∧ State.reset.pc.toNat ≤ 0xFFE ∧
    (0x0000#16).toNat = 256 * (State.reset.readByte 0x200).toNat + (State.reset.readByte 0x201).toNat ∧
    ∀ r ∈ opcodeTable, 0x0000#16 &&& r.mask ≠ r.value := ⟨⟨rfl, rfl⟩, by decide, by decide, by decide⟩

/-- HaltedStepReturnsTheLatchedError, NoTransactionClearsAnError. -/
theorem witness_halted : (got (step State.reset)).err = some (.unknownOpcode 0x0000 0x200) := by decide

/-- ErrorsArePrecise: a step that raises. -/
theorem witness_raises : step State.reset = .next (got (step State.reset)) ∧ (got (step State.reset)).err ≠ State.reset.err :=
  ⟨rfl, by decide⟩

/-- A pending wait at its FX0A, as the machine makes it. -/
def waiting : State := run (regs []) 0xF30A

/-- PendingKeyWaitStep with no key, PendingWaitIsRefetch, PendingWaitStaysAtItsInstruction. -/
theorem witness_waiting : waiting.err = none ∧ waiting.kw = some 3 ∧ (∀ k < 16, waiting.keyDown k = false) ∧
    waiting.fetchOk = true ∧ decodeWord waiting.fetchWord = some (.ldVxKey 3) := by decide

theorem witness_waits_at_key_instr : WaitsAtKeyInstr waiting := by
  intro x hx
  have : x = 3 := Option.some.inj (hx.symm.trans witness_waiting.2.1)
  subst this
  exact ⟨witness_waiting.2.2.2.1, witness_waiting.2.2.2.2⟩

/-- A step from a pending wait (PendingWaitStaysAtItsInstruction). -/
theorem witness_waiting_steps : step waiting = .next (got (step waiting)) := rfl

/-- PendingKeyWaitStep and KeyWaitCapturesOrLatches with the least and the greatest key. -/
theorem witness_least_key :
    (setInput (pressed [0, 15]) waiting).keyDown 0 = true ∧ (∀ j, j < 0 → (setInput (pressed [0, 15]) waiting).keyDown j = false) ∧
    (setInput (pressed [15]) waiting).keyDown 15 = true ∧ (∀ j < 15, (setInput (pressed [15]) waiting).keyDown j = false) := by
  decide

/-- No key at all is pressed at creation (KeyWaitCapturesOrLatches). -/
theorem witness_no_key : ∀ k, State.reset.keyDown k = false := by
  intro k; simp [State.keyDown, State.reset, State.create]

/-- JumpToSelfIsAFixedPoint. -/
theorem witness_jump_to_self : Ready ((regs []).withFetchWord 16 0x1200) ∧
    ((regs []).withFetchWord 16 0x1200).pc.toNat = (0x200#12).toNat ∧ ((regs []).withFetchWord 16 0x1200).pc.toNat ≤ 0xFFE ∧
    decodeWord ((regs []).withFetchWord 16 0x1200).fetchWord = some (.jp 0x200) :=
  ⟨⟨rfl, rfl⟩, by decide, by decide, by decide⟩

/-- An instruction that goes on and one that raises, of the same constructor (InstructionsWriteOnlyTheirComponents,
OtherRegistersAreUnchanged, InstructionsRaiseByTheErrorTable, OnlyRndDraws, DirtyAndSoundTimerAreNotRead). -/
theorem witness_exec :
    exec .ret { regs [] with sp := 1 } = .next (got (exec .ret { regs [] with sp := 1 })) ∧
    execError .ret { regs [] with sp := 1 } = none ∧
    exec .ret (regs []) = .next (got (exec .ret (regs []))) ∧
    execError .ret (regs []) = some (.outOfBounds .stackUnderflow 0x200 0x200) ∧ (3 : Nibble) ∉ destRegs .ret :=
  ⟨rfl, by decide, rfl, by decide, by decide⟩

/-- The error table at its boundaries: the last legal and the first illegal operand of each kind of access. -/
theorem witness_error_bounds :
    execError (.loadRegs 0xF) { regs [] with i := 0xFF0 } = none ∧
    execError (.loadRegs 0xF) { regs [] with i := 0xFF1 } = some (.outOfBounds .memory 0x1000 0x200) ∧
    execError (.drw 0 0 0) { regs [] with i := 0x5000 } = none ∧
    execError (.skp 0) (regs [(0, 15)]) = none ∧ execError (.skp 0) (regs [(0, 16)]) = some (.outOfBounds .keyIndex 16 0x200) ∧
    execError (.call 0x300) { regs [] with sp := 15 } = none ∧
    execError (.call 0x300) { regs [] with sp := 16 } = some (.outOfBounds .stackOverflow 0x200 0x200) := by decide

/-- A step that changes DT and one that changes ST (StepNeverTicks). -/
theorem witness_timer_steps :
    step ((regs [(1, 5)]).withFetchWord 16 0xF115) = .next (run (regs [(1, 5)]) 0xF115) ∧ (run (regs [(1, 5)]) 0xF115).dt ≠ 0 ∧
    step ((regs [(1, 5)]).withFetchWord 16 0xF118) = .next (run (regs [(1, 5)]) 0xF118) ∧ (run (regs [(1, 5)]) 0xF118).st ≠ 0 :=
  ⟨rfl, by decide, rfl, by decide⟩

/-- Depths 0, 15 and 16 of the stack (CallPushesTheCallSite, ReturnPopsTheCallSite). -/
theorem witness_stack_depths :
    ({ regs [] with sp := 15 } : State).sp.val < 16 ∧ ({ regs [] with sp := 16 } : State).sp.val = 16 ∧
    ({ regs [] with sp := 16 } : State).sp.val = 15 + 1 ∧ ({ regs [] with sp := 1 } : State).sp.val = 0 + 1 ∧
    (regs []).sp.val = 0 := by decide

/-- ReturnUndoesCall: the state after the call, with other registers changed. -/
theorem witness_call_then_return :
    (regs []).sp.val < 16 ∧ exec (.call 0x300) (regs []) = .next (got (exec (.call 0x300) (regs []))) ∧
    ((got (exec (.call 0x300) (regs []))).writeV 1 7).sp = (got (exec (.call 0x300) (regs []))).sp ∧
    ((got (exec (.call 0x300) (regs []))).writeV 1 7).stack = (got (exec (.call 0x300) (regs []))).stack :=
  ⟨by decide, rfl, rfl, rfl⟩

/-- Canonical memory, and I on both sides of the bounds of FX33, FX55 and FX65 (BcdStoresThreeDigits, StoreRegisterBlock,
LoadRegisterBlock, LoadCopiesTheImageOrRefuses). -/
theorem witness_memory_bounds :
    Memory.wf (regs []).cfg.font (regs []).mem ∧
    ({ regs [] with i := 0xFFD } : State).i.toNat + 2 < 4096 ∧ ({ regs [] with i := 0xFFE } : State).i.toNat + 2 ≥ 4096 ∧
    ({ regs [] with i := 0xFF0 } : State).i.toNat + (0xF#4).toNat < 4096 ∧
    ({ regs [] with i := 0xFF1 } : State).i.toNat + (0xF#4).toNat ≥ 4096 :=
  ⟨Memory.nil_wf _, by decide, by decide, by decide, by decide⟩

/-- The store before LoadRegisterBlock's third clause and StoredBytesAreFetched: V0, V1 stored at 0x202 and fetched there. -/
def stored : State := got (exec (.storeRegs 1) { regs [(0, 0x12)] with i := 0x202 })

theorem witness_stored :
    exec (.storeRegs 1) { regs [(0, 0x12)] with i := 0x202 } = .next stored ∧ (1#4).toNat = (0#4).toNat + 1 ∧
    ({ stored with pc := 0x202 } : State).pc.toNat = ({ regs [(0, 0x12)] with i := 0x202 } : State).i.toNat + (0#4).toNat ∧
    (∀ a, ({ stored with pc := 0x202 } : State).readByte a = stored.readByte a) ∧
    stored.i = ({ regs [(0, 0x12)] with i := 0x202 } : State).i :=
  ⟨rfl, by decide, by decide, fun _ => rfl, by decide⟩

/-- CanonicalMemoriesAreExtensional: a canonical memory that lists bytes. -/
theorem witness_canonical : Memory.wf standardFont [(0x050, 0x01), (0x300, 0x02)] := by decide

/-- The two sides of the sprite bound, and no rows (DrawXorsTheSprite, DrawOutsideMemoryRaises). -/
theorem witness_sprite_bounds :
    (0#4).toNat = 0 ∧ ({ regs [] with i := 0xFFE } : State).i.toNat + (2#4).toNat ≤ 4096 ∧
    0 < (3#4).toNat ∧ 4096 ≤ ({ regs [] with i := 0xFFE } : State).i.toNat + (3#4).toNat - 1 := by decide

/-- A display of one sprite row at (60, 0). -/
def drawing : State := { regs [(0, 60)] with i := 0x300 }.writeBytes 0x300 [0xFF]

/-- A pixel that is covered, clear and set, and one that is not covered (the clauses of DrawXorsTheSprite). -/
theorem witness_covered : SpriteCovers drawing 0 1 1 3 0 ∧ drawing.pix.at 3 0 = false ∧ ¬ SpriteCovers drawing 0 1 1 4 0 ∧
    ({ drawing with pix := Frame.blank.toggle 3 0 } : State).pix.at 3 0 = true := by
  refine ⟨⟨0, 7, by decide, by decide, by decide, by decide, by decide⟩, by decide, ?_, by decide⟩
  rintro ⟨r, c, hr, hc, -, hx, -⟩
  have h : ((drawing.readV 0).toNat + c) % 64 = 4 := hx.symm
  have h60 : (drawing.readV 0).toNat = 60 := by decide
  omega

/-- DrawingTwiceRestoresTheDisplay: the state after the first draw is itself one that may draw again. -/
theorem witness_draw_twice :
    exec (.drw 0 1 1) drawing = .next (got (exec (.drw 0 1 1) drawing)) ∧ drawing.i.toNat + (1#4).toNat ≤ 4096 ∧
    (got (exec (.drw 0 1 1) drawing)).i = drawing.i ∧ (∀ a, (got (exec (.drw 0 1 1) drawing)).readByte a = drawing.readByte a) ∧
    (got (exec (.drw 0 1 1) drawing)).readV 0 = drawing.readV 0 ∧ (got (exec (.drw 0 1 1) drawing)).readV 1 = drawing.readV 1 :=
  ⟨rfl, by decide, by decide, fun _ => rfl, by decide, by decide⟩

/-- Key indexes 15 and 16, the key pressed and released (KeySkipsConsumeThePressedKey). -/
theorem witness_key_bounds :
    ((regs [(0, 15)]).readV 0).toNat = 15 ∧ ((regs [(0, 16)]).readV 0).toNat = 16 ∧
    ({ regs [(0, 15)] with key := pressed [15] } : State).keyDown 15 = true ∧ (regs [(0, 15)]).keyDown 15 = false := by decide

/-- Images of 3584 and 3585 bytes (LoadCopiesTheImageOrRefuses). -/
theorem witness_image_bounds :
    (List.replicate 3584 (0xAA#8)).length ≤ 3584 ∧ 3584 < (List.replicate 3585 (0xAA#8)).length :=
  ⟨Nat.le_of_eq List.length_replicate, by rw [List.length_replicate]; decide⟩

/-- The invariant holds of a state that calls, waits and stores have been through (StepKeepsTheInvariant,
RunsKeepTheInvariant). -/
theorem witness_invariant :
    Inv { regs [] with mem := [(0x300, 1)], sp := 1, kw := some 3 } ∧
    step { regs [] with mem := [(0x300, 1)], sp := 1, kw := some 3 } =
      .next (got (step { regs [] with mem := [(0x300, 1)], sp := 1, kw := some 3 })) := by
  refine ⟨⟨by decide, ⟨by decide, ?_, fun _ => by decide⟩, fun n => by simp [regs, State.reset, State.create]⟩, rfl⟩
  intro k hk _
  simp [regs, State.reset, State.create]

end Sys2Proof.Tests
end

section
/-! The statements of 10_state.md: what the host's writes to the state do, and what they leave as it was. -/

namespace Sys2Proof.Machine

/-- A key index within the vector reads the vector just written. -/
@[simp] theorem State.setKeys_keyDown (s : State) (k : Keys) (j : Nat) (h : j < 16) :
    (s.setKeys k).keyDown j = k[j] := by
  simp [State.keyDown, h]

/-- The frame of a write to the key vector: each other component is read back by its own `setKeys` law. -/
theorem State.onlyWrites_setKeys (s : State) (k : Keys) : OnlyWrites [.key] s (s.setKeys k) := by
  intro c hc
  cases c with
  | key => exact absurd (List.mem_singleton_self _) hc
  | _ => simp [Component.agree]

/-- Settles O49: SetInput is a write to the key vector, so its reads and its frame are those of `setKeys`. -/
theorem setInputReplacesEveryKey : Obligations.SetInputReplacesEveryKey := by
  intro s k
  constructor
  · exact State.setKeys_keyDown s k
  · exact State.onlyWrites_setKeys s k

end Sys2Proof.Machine
end

section
/-! The statements of 40_cycle.md: the bound and the word of a fetch, and the row of the opcode map a step runs. -/

namespace Sys2Proof

/-- Two rows differ on some bit that both of their masks fix, so no word can match them both. -/
abbrev OpRow.Incompatible (r q : OpRow) : Prop := r.value &&& q.mask ≠ q.value &&& r.mask

theorem opcodeTable_pairwise_incompatible : opcodeTable.Pairwise OpRow.Incompatible := by decide

/-- No two rows of the map select one word (R56). -/
theorem opcodeTable_row_unique {r q : OpRow} {w : Word} (hr : r ∈ opcodeTable) (hq : q ∈ opcodeTable)
    (hrw : r.selects w = true) (hqw : q.selects w = true) : r = q := by
  have : Std.Symm OpRow.Incompatible := ⟨fun _ _ => Ne.symm⟩
  by_contra hne
  exact opcodeTable_pairwise_incompatible.forall hr hq hne (OpRow.selects_compatible hrw hqw)

/-- A row that selects a word gives the word's instruction: the first such row the decoder finds is the only one. -/
theorem decodeWord_of_selects {r : OpRow} {w : Word} (hr : r ∈ opcodeTable) (hw : r.selects w = true) :
    decodeWord w = some (r.build w) := by
  cases hd : decodeWord w with
  | none => simp [(decodeWord_eq_none_iff w).mp hd r hr] at hw
  | some i =>
    obtain ⟨q, hq, hqw, rfl⟩ := decodeWord_row hd
    rw [opcodeTable_row_unique hr hq hw hqw]

end Sys2Proof

namespace Sys2Proof.Machine

/-- A fetched word is the high byte at pc and the low byte after it (R41, R62). -/
theorem State.toNat_fetchWord (s : State) :
    s.fetchWord.toNat = 256 * (s.readByte s.pc.toNat).toNat + (s.readByte (s.pc.toNat + 1)).toNat :=
  toNat_joinBytes _ _

section
variable {s : State}

/-- A running engine whose pc is past the fetch bound latches the fetch error (R62). -/
theorem step_of_fetch_out_of_bounds (hs : Ready s) (hpc : 0xFFE < s.pc.toNat) :
    step s = .next (s.latch s.fetchFault) := by
  obtain ⟨herr, hkw⟩ := hs
  have hf : ¬ s.fetchOk = true := fun h => Nat.not_le.mpr hpc (s.fetchOk_iff.mp h)
  simp [step, herr, hkw, hf]

/-- A running engine executes the instruction its fetched word decodes to (R61). -/
theorem step_of_decodeWord_eq_some (hs : Ready s) (hpc : s.pc.toNat ≤ 0xFFE) {i : Instr}
    (hd : decodeWord s.fetchWord = some i) : step s = exec i s := by
  obtain ⟨herr, hkw⟩ := hs
  simp [step, herr, hkw, s.fetchOk_iff.mpr hpc, hd]

/-- A running engine latches the decode error when its fetched word decodes to nothing (R63). -/
theorem step_of_decodeWord_eq_none (hs : Ready s) (hpc : s.pc.toNat ≤ 0xFFE)
    (hd : decodeWord s.fetchWord = none) : step s = .next (s.latch s.decodeFault) := by
  obtain ⟨herr, hkw⟩ := hs
  simp [step, herr, hkw, s.fetchOk_iff.mpr hpc, hd]

end

/-- Settles O9: the given word is the fetched one, and its instruction is that of the one row that selects it. -/
theorem stepDecodesByTheOpcodeMap : Obligations.StepDecodesByTheOpcodeMap := by
  intro s w hs hpc hw
  obtain rfl : w = s.fetchWord := BitVec.eq_of_toNat_eq (hw.trans s.toNat_fetchWord.symm)
  constructor
  · intro r hr hsel
    exact step_of_decodeWord_eq_some hs hpc (decodeWord_of_selects hr ((r.selects_iff _).mpr hsel))
  · intro hnone
    have hd : decodeWord s.fetchWord = none :=
      (decodeWord_eq_none_iff _).mpr fun r hr => Bool.eq_false_iff.mpr (mt (r.selects_iff _).mp (hnone r hr))
    exact step_of_decodeWord_eq_none hs hpc hd

/-- Settles O7: the bound of `fetchOk`, the big-endian word of `fetchWord`, and the step that fails to fetch. -/
theorem fetchReadsTwoBytesBigEndian : Obligations.FetchReadsTwoBytesBigEndian := by
  intro s hs
  refine ⟨s.fetchOk_iff, ?_, ?_⟩
  · exact fun _ => s.toNat_fetchWord
  · exact step_of_fetch_out_of_bounds hs

end Sys2Proof.Machine
end

section
/-! The statements of 41_control_flow.md: the words and the effects of the jumps and of the register and immediate
skips. -/

namespace Sys2Proof

/-! ## The fields of the bit diagrams (R52) -/

theorem fieldNNN_append (f : Nibble) (nnn : Addr) : fieldNNN (f ++ nnn) = nnn :=
  BitVec.extractLsb'_append_eq_right

theorem fieldNN_append (f x : Nibble) (nn : Byte) : fieldNN (f ++ x ++ nn) = nn :=
  BitVec.extractLsb'_append_eq_right

/-- A field between a high part and a low part is read back at the width of the low part. -/
theorem extractLsb'_append_middle {a b c : Nat} (hi : BitVec a) (x : BitVec b) (lo : BitVec c) :
    (hi ++ x ++ lo).extractLsb' c b = x := by
  rw [BitVec.extractLsb'_append_eq_of_le (Nat.le_refl c), Nat.sub_self, BitVec.extractLsb'_append_eq_right]

theorem fieldX_append_byte (f x : Nibble) (nn : Byte) : fieldX (f ++ x ++ nn) = x :=
  extractLsb'_append_middle f x nn

theorem fieldX_append_nibbles (f x y n : Nibble) : fieldX (f ++ x ++ y ++ n) = x :=
  (BitVec.extractLsb'_append_eq_of_le (by decide)).trans (extractLsb'_append_middle f x y)

theorem fieldY_append_nibbles (f x y n : Nibble) : fieldY (f ++ x ++ y ++ n) = y :=
  extractLsb'_append_middle (f ++ x) y n

/-! ## Words that decode and words that do not -/

/-- A word decodes to what a row of the map makes of it, when it has the row's fixed digits. -/
theorem decodeWord_of_row {r : OpRow} (hr : r ∈ opcodeTable) {w : Word} {i : Instr} (hw : w &&& r.mask = r.value)
    (hi : r.build w = i) : decodeWord w = some i :=
  hi ▸ decodeWord_of_selects hr ((r.selects_iff w).mpr hw)

/-- A word is rejected when its digits under one mask contradict the fixed digits of every row. -/
theorem decodeWord_eq_none_of_incompatible {w mask value : Word} (hw : w &&& mask = value)
    (h : ∀ r ∈ opcodeTable, r.value &&& mask ≠ value &&& r.mask) : decodeWord w = none := by
  rw [decodeWord_eq_none_iff]
  intro r hr
  refine Bool.eq_false_iff.mpr fun hrw => h r hr ?_
  exact OpRow.selects_compatible (q := { r with mask := mask, value := value }) hrw ((OpRow.selects_iff _ w).mpr hw)

theorem decodeWord_jp (nnn : Addr) : decodeWord (0x1#4 ++ nnn) = some (.jp nnn) :=
  decodeWord_of_row (r := opcodeTable[2]) (List.getElem_mem _) ((mask_F000_addr ..).trans (by decide))
    (congrArg Instr.jp (fieldNNN_append ..))

theorem decodeWord_jpV0 (nnn : Addr) : decodeWord (0xB#4 ++ nnn) = some (.jpV0 nnn) :=
  decodeWord_of_row (r := opcodeTable[20]) (List.getElem_mem _) ((mask_F000_addr ..).trans (by decide))
    (congrArg Instr.jpV0 (fieldNNN_append ..))

theorem decodeWord_seImm (x : Nibble) (nn : Byte) : decodeWord (0x3#4 ++ x ++ nn) = some (.seImm x nn) :=
  decodeWord_of_row (r := opcodeTable[4]) (List.getElem_mem _) ((mask_F000_byte ..).trans (by decide))
    (congrArg₂ Instr.seImm (fieldX_append_byte ..) (fieldNN_append ..))

theorem decodeWord_sneImm (x : Nibble) (nn : Byte) : decodeWord (0x4#4 ++ x ++ nn) = some (.sneImm x nn) :=
  decodeWord_of_row (r := opcodeTable[5]) (List.getElem_mem _) ((mask_F000_byte ..).trans (by decide))
    (congrArg₂ Instr.sneImm (fieldX_append_byte ..) (fieldNN_append ..))

/-- The rows of families 5 and 9 all fix the last digit at 0 (R54, R57). -/
theorem families_5_9_fix_low_nibble : ∀ f ∈ [0x5#4, 0x9#4], ∀ n : Nibble, n ≠ 0 → ∀ r ∈ opcodeTable,
    r.value &&& 0xF00F#16 ≠ (f ++ 0#4 ++ 0#4 ++ n) &&& r.mask := by decide

/-- Families 5 and 9 have no word with a nonzero last digit (R57). -/
theorem decodeWord_low_nibble_ne_zero {f n : Nibble} (hf : f ∈ [0x5#4, 0x9#4]) (hn : n ≠ 0) (x y : Nibble) :
    decodeWord (f ++ x ++ y ++ n) = none :=
  decodeWord_eq_none_of_incompatible (mask_F00F ..) (families_5_9_fix_low_nibble f hf n hn)

theorem decodeWord_seReg (x y n : Nibble) :
    decodeWord (0x5#4 ++ x ++ y ++ n) = if n = 0 then some (.seReg x y) else none := by
  split
  · next hn =>
    subst hn
    exact decodeWord_of_row (r := opcodeTable[6]) (List.getElem_mem _) ((mask_F00F ..).trans (by decide))
      (congrArg₂ Instr.seReg (fieldX_append_nibbles ..) (fieldY_append_nibbles ..))
  · next hn => exact decodeWord_low_nibble_ne_zero (by decide) hn x y

theorem decodeWord_sneReg (x y n : Nibble) :
    decodeWord (0x9#4 ++ x ++ y ++ n) = if n = 0 then some (.sneReg x y) else none := by
  split
  · next hn =>
    subst hn
    exact decodeWord_of_row (r := opcodeTable[18]) (List.getElem_mem _) ((mask_F00F ..).trans (by decide))
      (congrArg₂ Instr.sneReg (fieldX_append_nibbles ..) (fieldY_append_nibbles ..))
  · next hn => exact decodeWord_low_nibble_ne_zero (by decide) hn x y

end Sys2Proof

namespace Sys2Proof.Machine

/-! ## The pc updates (R64) -/

section
variable (s : State)

/-- The frame of a write to pc: each other component is read back by its own `setPc` law. -/
theorem State.onlyWrites_setPc (w : Word) : OnlyWrites [.pc] s (s.setPc w) := by
  intro c hc
  cases c with
  | pc => exact absurd (List.mem_singleton_self _) hc
  | _ => simp [Component.agree]

theorem State.onlyWrites_skipIf (c : Bool) : OnlyWrites [.pc] s (s.skipIf c) := s.onlyWrites_setPc _

/-- A skip on equal bytes (R74, R76). -/
theorem State.skipIf_beq_pc (a b : Byte) :
    (s.skipIf (a == b)).pc = s.pc + (if a.toNat = b.toNat then 4 else 2) := by
  by_cases h : a = b
  · simp [h]
  · simp [h, BitVec.toNat_inj]

/-- A skip on different bytes (R75, R77). -/
theorem State.skipIf_bne_pc (a b : Byte) :
    (s.skipIf (a != b)).pc = s.pc + (if a.toNat = b.toNat then 2 else 4) := by
  by_cases h : a = b
  · simp [h]
  · simp [h, BitVec.toNat_inj]

end

@[simp] theorem toNat_zextAddr (nnn : Addr) : (zextAddr nnn).toNat = nnn.toNat :=
  BitVec.toNat_setWidth_of_le (by decide)

@[simp] theorem toNat_zextByte (b : Byte) : (zextByte b).toNat = b.toNat :=
  BitVec.toNat_setWidth_of_le (by decide)

/-- The target of BNNN fits 16 bits, so the sum of R73 does not wrap. -/
theorem toNat_zextByte_add_zextAddr (b : Byte) (nnn : Addr) :
    (zextByte b + zextAddr nnn).toNat = b.toNat + nnn.toNat := by
  have hlt : (zextByte b).toNat + (zextAddr nnn).toNat < 2 ^ 16 := by
    rw [toNat_zextByte, toNat_zextAddr]
    omega
  rw [BitVec.toNat_add_of_lt hlt, toNat_zextByte, toNat_zextAddr]

/-! ## The effects of the instructions -/

section
variable (s : State)

theorem exec_jp (nnn : Addr) : exec (.jp nnn) s = .next (s.setPc (zextAddr nnn)) := rfl

theorem exec_jpV0 (nnn : Addr) : exec (.jpV0 nnn) s = .next (s.setPc (zextByte (s.readV 0) + zextAddr nnn)) := rfl

theorem exec_seImm (x : Nibble) (nn : Byte) : exec (.seImm x nn) s = .next (s.skipIf (s.readV x == nn)) := rfl

theorem exec_sneImm (x : Nibble) (nn : Byte) : exec (.sneImm x nn) s = .next (s.skipIf (s.readV x != nn)) := rfl

theorem exec_seReg (x y : Nibble) : exec (.seReg x y) s = .next (s.skipIf (s.readV x == s.readV y)) := rfl

theorem exec_sneReg (x y : Nibble) : exec (.sneReg x y) s = .next (s.skipIf (s.readV x != s.readV y)) := rfl

end

/-- Settles O24: the four words decode as the rows of the map say, and each skip is `skipIf` of its comparison. -/
theorem skipsAdvanceByFourOrTwo : Obligations.SkipsAdvanceByFourOrTwo := by
  intro s x y nn
  refine ⟨decodeWord_seImm x nn, decodeWord_sneImm x nn, decodeWord_seReg x y, decodeWord_sneReg x y,
    ?_, ?_, ?_, ?_⟩
  · exact ⟨_, exec_seImm s x nn, s.skipIf_beq_pc _ _, s.onlyWrites_skipIf _⟩
  · exact ⟨_, exec_sneImm s x nn, s.skipIf_bne_pc _ _, s.onlyWrites_skipIf _⟩
  · exact ⟨_, exec_seReg s x y, s.skipIf_beq_pc _ _, s.onlyWrites_skipIf _⟩
  · exact ⟨_, exec_sneReg s x y, s.skipIf_bne_pc _ _, s.onlyWrites_skipIf _⟩

/-- Settles O23: the two words decode to the jumps, and each jump is one write to pc of a target that does not wrap. -/
theorem jumpsSetPc : Obligations.JumpsSetPc := by
  intro s nnn
  refine ⟨decodeWord_jp nnn, decodeWord_jpV0 nnn, ?_, ?_⟩
  · exact ⟨_, exec_jp s nnn, toNat_zextAddr nnn, s.onlyWrites_setPc _⟩
  · exact ⟨_, exec_jpV0 s nnn, toNat_zextByte_add_zextAddr _ nnn, s.onlyWrites_setPc _⟩

end Sys2Proof.Machine
end

section
/-! The statements of 42_alu.md: the words and the effects of the immediate load and add and of copy,
OR, AND and XOR. -/

namespace Sys2Proof

/-! ## Words by the form of their row (R52, R56) -/

/-- A row that fixes the first digit and reads X and NN decodes every word of its family. -/
theorem decodeWord_immediate_row {r : OpRow} (hr : r ∈ opcodeTable) {f : Nibble} (hmask : r.mask = 0xF000)
    (hvalue : r.value = f ++ 0#4 ++ 0#8) {op : Nibble → Byte → Instr}
    (hbuild : ∀ w, r.build w = op (fieldX w) (fieldNN w)) (x : Nibble) (nn : Byte) :
    decodeWord (f ++ x ++ nn) = some (op x nn) := by
  refine decodeWord_of_row hr ?_ ?_
  · rw [hmask, hvalue]
    exact mask_F000_byte ..
  · rw [hbuild, fieldX_append_byte, fieldNN_append]

/-- A row that fixes the first and last digits and reads X and Y decodes every word with those digits. -/
theorem decodeWord_register_row {r : OpRow} (hr : r ∈ opcodeTable) {f n : Nibble} (hmask : r.mask = 0xF00F)
    (hvalue : r.value = f ++ 0#4 ++ 0#4 ++ n) {op : Nibble → Nibble → Instr}
    (hbuild : ∀ w, r.build w = op (fieldX w) (fieldY w)) (x y : Nibble) :
    decodeWord (f ++ x ++ y ++ n) = some (op x y) := by
  refine decodeWord_of_row hr ?_ ?_
  · rw [hmask, hvalue]
    exact mask_F00F ..
  · rw [hbuild, fieldX_append_nibbles, fieldY_append_nibbles]

theorem decodeWord_ldImm (x : Nibble) (nn : Byte) : decodeWord (0x6#4 ++ x ++ nn) = some (.ldImm x nn) :=
  decodeWord_immediate_row (r := opcodeTable[7]) (List.getElem_mem _) rfl (by decide) (fun _ => rfl) x nn

theorem decodeWord_addImm (x : Nibble) (nn : Byte) : decodeWord (0x7#4 ++ x ++ nn) = some (.addImm x nn) :=
  decodeWord_immediate_row (r := opcodeTable[8]) (List.getElem_mem _) rfl (by decide) (fun _ => rfl) x nn

theorem decodeWord_ldReg (x y : Nibble) : decodeWord (0x8#4 ++ x ++ y ++ 0x0#4) = some (.ldReg x y) :=
  decodeWord_register_row (r := opcodeTable[9]) (List.getElem_mem _) rfl (by decide) (fun _ => rfl) x y

theorem decodeWord_orReg (x y : Nibble) : decodeWord (0x8#4 ++ x ++ y ++ 0x1#4) = some (.orReg x y) :=
  decodeWord_register_row (r := opcodeTable[10]) (List.getElem_mem _) rfl (by decide) (fun _ => rfl) x y

theorem decodeWord_andReg (x y : Nibble) : decodeWord (0x8#4 ++ x ++ y ++ 0x2#4) = some (.andReg x y) :=
  decodeWord_register_row (r := opcodeTable[11]) (List.getElem_mem _) rfl (by decide) (fun _ => rfl) x y

theorem decodeWord_xorReg (x y : Nibble) : decodeWord (0x8#4 ++ x ++ y ++ 0x3#4) = some (.xorReg x y) :=
  decodeWord_register_row (r := opcodeTable[12]) (List.getElem_mem _) rfl (by decide) (fun _ => rfl) x y

end Sys2Proof

namespace Sys2Proof.Machine

/-! ## One register write and the advance -/

section
variable (s : State) (x : Nibble)

/-- The frame of a register write and the advance: each other component is read back by its own laws. -/
theorem State.onlyWrites_writeV_advance (b : Byte) : OnlyWrites [.v, .pc] s (s.writeV x b).advance := by
  intro c hc
  cases c with
  | v | pc => simp at hc
  | _ => simp [Component.agree]

theorem State.toNat_readV_writeV_advance (b : Byte) (q : Nibble) :
    ((s.writeV x b).advance.readV q).toNat = if q = x then b.toNat else (s.readV q).toNat := by
  rw [State.advance_readV, State.readV_writeV, apply_ite BitVec.toNat]

/-- All that the write of a byte with the bits `p` and the advance do: VF, like any other register, changes only as the
destination (R15). -/
theorem State.writeV_advance_effect {b : Byte} {p : Nat → Bool} (hp : ∀ k < 8, b.getLsbD k = p k) :
    (s.writeV x b).advance.pc = s.pc + 2 ∧ (∀ q ≠ x, (s.writeV x b).advance.readV q = s.readV q) ∧
      (∀ k < 8, ((s.writeV x b).advance.readV x).getLsbD k = p k) ∧ OnlyWrites [.v, .pc] s (s.writeV x b).advance := by
  refine ⟨State.advance_pc _, ?_, ?_, s.onlyWrites_writeV_advance x b⟩
  · intro q hq
    rw [State.advance_readV, State.readV_writeV, if_neg hq]
  · intro k hk
    rw [State.advance_readV, State.readV_writeV_same, hp k hk]

/-! ## The effects of the instructions (R81 to R86) -/

theorem exec_ldImm (nn : Byte) : exec (.ldImm x nn) s = .next (s.writeV x nn).advance := rfl

theorem exec_addImm (nn : Byte) : exec (.addImm x nn) s = .next (s.writeV x (s.readV x + nn)).advance := rfl

variable (y : Nibble)

theorem exec_ldReg : exec (.ldReg x y) s = .next (s.writeV x (s.readV y)).advance := rfl

theorem exec_orReg : exec (.orReg x y) s = .next (s.writeV x (s.readV x ||| s.readV y)).advance := rfl

theorem exec_andReg : exec (.andReg x y) s = .next (s.writeV x (s.readV x &&& s.readV y)).advance := rfl

theorem exec_xorReg : exec (.xorReg x y) s = .next (s.writeV x (s.readV x ^^^ s.readV y)).advance := rfl

end

/-- Settles O28: both words decode by their rows, and each instruction is one register write; the addition of bytes is
the addition of their values mod 256. -/
theorem immediateLoadAndAdd : Obligations.ImmediateLoadAndAdd := by
  intro s x nn
  refine ⟨decodeWord_ldImm x nn, decodeWord_addImm x nn, ?_, ?_⟩
  · exact ⟨_, exec_ldImm s x nn, State.advance_pc _, s.toNat_readV_writeV_advance x _,
      s.onlyWrites_writeV_advance x _⟩
  · have hadd : (s.readV x + nn).toNat = ((s.readV x).toNat + nn.toNat) % 256 := BitVec.toNat_add _ _
    exact ⟨_, exec_addImm s x nn, State.advance_pc _, hadd ▸ s.toNat_readV_writeV_advance x _,
      s.onlyWrites_writeV_advance x _⟩

/-- Settles O29: the four words decode by their rows, and each instruction is one register write, of a byte whose bits
are those of the operation. -/
theorem copyAndLogicBitByBit : Obligations.CopyAndLogicBitByBit := by
  intro s x y
  refine ⟨decodeWord_ldReg x y, decodeWord_orReg x y, decodeWord_andReg x y, decodeWord_xorReg x y, ?_, ?_, ?_, ?_⟩
  · exact ⟨_, exec_ldReg s x y, s.writeV_advance_effect x fun _ _ => rfl⟩
  · exact ⟨_, exec_orReg s x y, s.writeV_advance_effect x fun _ _ => BitVec.getLsbD_or⟩
  · exact ⟨_, exec_andReg s x y, s.writeV_advance_effect x fun _ _ => BitVec.getLsbD_and⟩
  · exact ⟨_, exec_xorReg s x y, s.writeV_advance_effect x fun _ _ => BitVec.getLsbD_xor⟩

end Sys2Proof.Machine
end

section
/-! The statements of 43_index_memory.md: the words and the effects of the index load, of the BCD store and of the
register block store and load. -/

namespace Sys2Proof

/-! ## Words that fix NN (R52, R56) -/

/-- A row that fixes the first digit and NN and reads X decodes every word with those digits. -/
theorem decodeWord_single_register_row {r : OpRow} (hr : r ∈ opcodeTable) {f : Nibble} {nn : Byte}
    (hmask : r.mask = 0xF0FF) (hvalue : r.value = f ++ 0#4 ++ nn) {op : Nibble → Instr}
    (hbuild : ∀ w, r.build w = op (fieldX w)) (x : Nibble) : decodeWord (f ++ x ++ nn) = some (op x) := by
  refine decodeWord_of_row hr ?_ ?_
  · rw [hmask, hvalue]
    exact mask_F0FF ..
  · rw [hbuild, fieldX_append_byte]

theorem decodeWord_ldI (nnn : Addr) : decodeWord (0xA#4 ++ nnn) = some (.ldI nnn) :=
  decodeWord_of_row (r := opcodeTable[19]) (List.getElem_mem _) ((mask_F000_addr ..).trans (by decide))
    (congrArg Instr.ldI (fieldNNN_append ..))

theorem decodeWord_ldBcd (x : Nibble) : decodeWord (0xF#4 ++ x ++ 0x33#8) = some (.ldBcd x) :=
  decodeWord_single_register_row (r := opcodeTable[31]) (List.getElem_mem _) rfl (by decide) (fun _ => rfl) x

theorem decodeWord_storeRegs (x : Nibble) : decodeWord (0xF#4 ++ x ++ 0x55#8) = some (.storeRegs x) :=
  decodeWord_single_register_row (r := opcodeTable[32]) (List.getElem_mem _) rfl (by decide) (fun _ => rfl) x

theorem decodeWord_loadRegs (x : Nibble) : decodeWord (0xF#4 ++ x ++ 0x65#8) = some (.loadRegs x) :=
  decodeWord_single_register_row (r := opcodeTable[33]) (List.getElem_mem _) rfl (by decide) (fun _ => rfl) x

end Sys2Proof

namespace Sys2Proof.Machine

section
variable (s : State)

/-! ## The memory guard on either side of its bound (R39) -/

theorem ifInMemory_of_le {n : Nat} (h : s.i.toNat + n ≤ 4096) (t : State) : ifInMemory n s t = .next t := by
  obtain ⟨-, hnext⟩ | ⟨⟨-, hout⟩, -⟩ := ifInMemory_cases s n t
  · exact hnext
  · omega

/-- An access of at least one byte that ends past memory raises, and writes only the latch. -/
theorem ifInMemory_of_gt {n : Nat} (hn : 0 < n) (h : 4096 < s.i.toNat + n) (t : State) :
    ifInMemory n s t = .next (s.latch (.outOfBounds .memory (max s.i.toNat 4096) s.pc)) := by
  obtain ⟨hin, -⟩ | ⟨-, hraise⟩ := ifInMemory_cases s n t
  · omega
  · exact hraise

/-! ## Blocks of bytes and of registers -/

theorem State.writeBytes_advance_pc (a : Nat) (bs : List Byte) : (s.writeBytes a bs).advance.pc = s.pc + 2 := by
  rw [State.advance_pc, State.writeBytes_mem_only]

theorem State.writeRegs_advance_pc (k : Nat) (bs : List Byte) : (s.writeRegs k bs).advance.pc = s.pc + 2 := by
  rw [State.advance_pc, State.writeRegs_v_only]

/-- After a block write into canonical memory each address of the block holds its own byte. -/
theorem State.readByte_writeBytes_inside (a : Nat) {bs : List Byte} (hm : Memory.wf s.cfg.font s.mem) {k : Nat}
    (hk : k < bs.length) : (s.writeBytes a bs).readByte (a + k) = bs[k] := by
  obtain ⟨hsorted, -⟩ := hm
  rw [State.readByte_writeBytes s a _ bs hsorted, dif_pos (by omega)]
  simp only [Nat.add_sub_cancel_left]

/-- The byte FX55 stores for a register of the block (R98). -/
theorem State.readByte_writeBytes_regBlock (a : Nat) {x k : Nibble} (hm : Memory.wf s.cfg.font s.mem)
    (hk : k.toNat ≤ x.toNat) : (s.writeBytes a (s.regBlock x)).readByte (a + k.toNat) = s.readV k := by
  have hlen : k.toNat < (s.regBlock x).length := by
    rw [State.length_regBlock]
    omega
  rw [s.readByte_writeBytes_inside a hm hlen, State.getElem_regBlock, BitVec.ofNat_toNat, BitVec.setWidth_eq]

/-- The registers after FX65: those of the block hold its bytes, the others are kept (R99). -/
theorem State.readV_writeRegs_readBytes (a : Nat) (x q : Nibble) :
    (s.writeRegs 0 (s.readBytes a (x.toNat + 1))).readV q =
      if q.toNat ≤ x.toNat then s.readByte (a + q.toNat) else s.readV q := by
  have hlen := s.length_readBytes a (x.toNat + 1)
  rw [State.readV_writeRegs s 0 _ (by omega)]
  by_cases hq : q.toNat ≤ x.toNat
  · rw [dif_pos (by omega), if_pos hq, State.getElem_readBytes, Nat.sub_zero]
  · rw [dif_neg (by omega), if_neg hq]

/-- The three digits as FX33 stores them; each fits a byte (R97). -/
theorem State.toNat_readByte_writeBytes_bcdDigits (a : Nat) (v : Byte) (hm : Memory.wf s.cfg.font s.mem) :
    ((s.writeBytes a (bcdDigits v)).readByte a).toNat = v.toNat / 100 ∧
    ((s.writeBytes a (bcdDigits v)).readByte (a + 1)).toNat = v.toNat / 10 % 10 ∧
    ((s.writeBytes a (bcdDigits v)).readByte (a + 2)).toNat = v.toNat % 10 := by
  have stored (k : Nat) (hk : k < 3) := congrArg BitVec.toNat (s.readByte_writeBytes_inside a (bs := bcdDigits v) hm hk)
  refine ⟨(stored 0 (by decide)).trans ?_, (stored 1 (by decide)).trans ?_, (stored 2 (by decide)).trans ?_⟩
  · exact Nat.mod_eq_of_lt (by omega)
  · exact Nat.mod_eq_of_lt (by omega)
  · exact Nat.mod_eq_of_lt (by omega)

/-! ## The effects of the instructions (R94, R97 to R99) -/

/-- The frame of a write to I and the advance: each other component is read back by its own laws. -/
theorem State.onlyWrites_setI_advance (w : Word) : OnlyWrites [.i, .pc] s (s.setI w).advance := by
  intro c hc
  cases c with
  | i | pc => simp at hc
  | _ => simp [Component.agree]

theorem exec_ldI (nnn : Addr) : exec (.ldI nnn) s = .next (s.setI (zextAddr nnn)).advance := rfl

variable (x : Nibble)

theorem exec_ldBcd :
    exec (.ldBcd x) s = ifInMemory 3 s (s.writeBytes s.i.toNat (bcdDigits (s.readV x))).advance := rfl

theorem exec_storeRegs :
    exec (.storeRegs x) s = ifInMemory (x.toNat + 1) s (s.writeBytes s.i.toNat (s.regBlock x)).advance := rfl

theorem exec_loadRegs : exec (.loadRegs x) s =
    ifInMemory (x.toNat + 1) s (s.writeRegs 0 (s.readBytes s.i.toNat (x.toNat + 1))).advance := rfl

theorem exec_storeRegs_of_in_memory (hin : s.i.toNat + x.toNat < 4096) :
    exec (.storeRegs x) s = .next (s.writeBytes s.i.toNat (s.regBlock x)).advance :=
  (exec_storeRegs s x).trans (ifInMemory_of_le s hin _)

theorem exec_loadRegs_of_in_memory (hin : s.i.toNat + x.toNat < 4096) :
    exec (.loadRegs x) s = .next (s.writeRegs 0 (s.readBytes s.i.toNat (x.toNat + 1))).advance :=
  (exec_loadRegs s x).trans (ifInMemory_of_le s hin _)

end

/-- Settles O34: the word decodes by its row, and the instruction is one write to I. -/
theorem loadIndexRegister : Obligations.LoadIndexRegister := by
  intro s nnn
  exact ⟨decodeWord_ldI nnn, _, exec_ldI s nnn, toNat_zextAddr nnn, State.advance_pc _, s.onlyWrites_setI_advance _⟩

/-- Settles O36: within memory FX33 is a block write of the three digits, past it the guard raises. -/
theorem bcdStoresThreeDigits : Obligations.BcdStoresThreeDigits := by
  intro s x hm
  refine ⟨decodeWord_ldBcd x, ?_, ?_⟩
  · intro hin
    obtain ⟨hundreds, tens, units⟩ := s.toNat_readByte_writeBytes_bcdDigits s.i.toNat (s.readV x) hm
    exact ⟨_, (exec_ldBcd s x).trans (ifInMemory_of_le s (by omega) _), hundreds, tens, units,
      fun a ha => s.readByte_writeBytes_outside _ a _ ha, s.writeBytes_advance_pc _ _,
      onlyWrites_writeBytes_advance s _ _⟩
  · intro hout
    exact (exec_ldBcd s x).trans (ifInMemory_of_gt s (by decide) (by omega) _)

/-- Settles O37: within memory FX55 is a block write of the register block, past it the guard raises. -/
theorem storeRegisterBlock : Obligations.StoreRegisterBlock := by
  intro s x hm
  refine ⟨decodeWord_storeRegs x, ?_, ?_⟩
  · intro hin
    refine ⟨_, exec_storeRegs_of_in_memory s x hin, ?_, ?_, s.writeBytes_advance_pc _ _,
      onlyWrites_writeBytes_advance s _ _⟩
    · intro k hk
      exact s.readByte_writeBytes_regBlock _ hm hk
    · intro a ha
      refine s.readByte_writeBytes_outside _ a _ ?_
      rw [State.length_regBlock]
      omega
  · intro hout
    exact (exec_storeRegs s x).trans (ifInMemory_of_gt s (by omega) (by omega) _)

/-- Settles O38: within memory FX65 is a block write of the registers, past it the guard raises; after FX55 it reads
back the bytes stored for them. -/
theorem loadRegisterBlock : Obligations.LoadRegisterBlock := by
  intro s x
  refine ⟨decodeWord_loadRegs x, ?_, ?_, ?_⟩
  · intro hin
    exact ⟨_, exec_loadRegs_of_in_memory s x hin, s.readV_writeRegs_readBytes _ x, s.writeRegs_advance_pc _ _,
      onlyWrites_writeRegs_advance s _ _⟩
  · intro hout
    exact (exec_loadRegs s x).trans (ifInMemory_of_gt s (by omega) (by omega) _)
  · intro hm hin t u hstore hi hmem
    obtain rfl : (s.writeBytes s.i.toNat (s.regBlock x)).advance = t :=
      Host.Outcome.next.inj ((exec_storeRegs_of_in_memory s x hin).symm.trans hstore)
    refine ⟨_, exec_loadRegs_of_in_memory u x (hi ▸ hin), ?_⟩
    intro k hk
    calc (u.writeRegs 0 (u.readBytes u.i.toNat (x.toNat + 1))).readV k
        = u.readByte (s.i.toNat + k.toNat) := by rw [State.readV_writeRegs_readBytes, if_pos hk, hi]
      _ = (s.writeBytes s.i.toNat (s.regBlock x)).readByte (s.i.toNat + k.toNat) := hmem _
      _ = s.readV k := s.readByte_writeBytes_regBlock _ hm hk

end Sys2Proof.Machine
end

section
/-! The statement of 45_keys_timers.md about the timers: the words and the effects of the instructions that read DT and
write DT and ST. -/

namespace Sys2Proof

/-! ## Words (R52, R56) -/

theorem decodeWord_ldVxDt (x : Nibble) : decodeWord (0xF#4 ++ x ++ 0x07#8) = some (.ldVxDt x) :=
  decodeWord_single_register_row (r := opcodeTable[25]) (List.getElem_mem _) rfl (by decide) (fun _ => rfl) x

theorem decodeWord_ldDtVx (x : Nibble) : decodeWord (0xF#4 ++ x ++ 0x15#8) = some (.ldDtVx x) :=
  decodeWord_single_register_row (r := opcodeTable[27]) (List.getElem_mem _) rfl (by decide) (fun _ => rfl) x

theorem decodeWord_ldStVx (x : Nibble) : decodeWord (0xF#4 ++ x ++ 0x18#8) = some (.ldStVx x) :=
  decodeWord_single_register_row (r := opcodeTable[28]) (List.getElem_mem _) rfl (by decide) (fun _ => rfl) x

end Sys2Proof

namespace Sys2Proof.Machine

section
variable (s : State)

/-! ## One timer write and the advance -/

/-- The frame of a write to DT and the advance: each other component is read back by its own laws. -/
theorem State.onlyWrites_setDt_advance (b : Byte) : OnlyWrites [.dt, .pc] s (s.setDt b).advance := by
  intro c hc
  cases c with
  | dt | pc => simp at hc
  | _ => simp [Component.agree]

/-- The frame of a write to ST and the advance: each other component is read back by its own laws. -/
theorem State.onlyWrites_setSt_advance (b : Byte) : OnlyWrites [.st, .pc] s (s.setSt b).advance := by
  intro c hc
  cases c with
  | st | pc => simp at hc
  | _ => simp [Component.agree]

/-! ## The effects of the instructions (R109 to R111) -/

variable (x : Nibble)

theorem exec_ldVxDt : exec (.ldVxDt x) s = .next (s.writeV x s.dt).advance := rfl

theorem exec_ldDtVx : exec (.ldDtVx x) s = .next (s.setDt (s.readV x)).advance := rfl

theorem exec_ldStVx : exec (.ldStVx x) s = .next (s.setSt (s.readV x)).advance := rfl

end

/-- Settles O47: the three words decode by their rows; the read of DT is one register write, and each of the other two
instructions is one timer write. -/
theorem timerAccess : Obligations.TimerAccess := by
  intro s x
  refine ⟨decodeWord_ldVxDt x, decodeWord_ldDtVx x, decodeWord_ldStVx x, ?_, ?_, ?_⟩
  · refine ⟨_, exec_ldVxDt s x, ?_, State.advance_pc _, s.onlyWrites_writeV_advance x _⟩
    intro q
    rw [State.advance_readV, State.readV_writeV]
  · exact ⟨_, exec_ldDtVx s x, State.advance_dt _, State.advance_pc _, s.onlyWrites_setDt_advance _⟩
  · exact ⟨_, exec_ldStVx s x, State.advance_st _, State.advance_pc _, s.onlyWrites_setSt_advance _⟩

end Sys2Proof.Machine
end

section
/-! The statements of 30_encoding.md: decoder and encoder undo each other, and the decoder rejects the illegal words. -/

namespace Sys2Proof

/-! ## The remaining words, by the form of their row (R52, R56) -/

theorem decodeWord_cls : decodeWord 0x00E0#16 = some .cls :=
  decodeWord_of_row (r := opcodeTable[0]) (List.getElem_mem _) (by decide) rfl

theorem decodeWord_ret : decodeWord 0x00EE#16 = some .ret :=
  decodeWord_of_row (r := opcodeTable[1]) (List.getElem_mem _) (by decide) rfl

theorem decodeWord_call (nnn : Addr) : decodeWord (0x2#4 ++ nnn) = some (.call nnn) :=
  decodeWord_of_row (r := opcodeTable[3]) (List.getElem_mem _) ((mask_F000_addr ..).trans (by decide))
    (congrArg Instr.call (fieldNNN_append ..))

theorem decodeWord_addReg (x y : Nibble) : decodeWord (0x8#4 ++ x ++ y ++ 0x4#4) = some (.addReg x y) :=
  decodeWord_register_row (r := opcodeTable[13]) (List.getElem_mem _) rfl (by decide) (fun _ => rfl) x y

theorem decodeWord_subReg (x y : Nibble) : decodeWord (0x8#4 ++ x ++ y ++ 0x5#4) = some (.subReg x y) :=
  decodeWord_register_row (r := opcodeTable[14]) (List.getElem_mem _) rfl (by decide) (fun _ => rfl) x y

theorem decodeWord_shrReg (x y : Nibble) : decodeWord (0x8#4 ++ x ++ y ++ 0x6#4) = some (.shrReg x y) :=
  decodeWord_register_row (r := opcodeTable[15]) (List.getElem_mem _) rfl (by decide) (fun _ => rfl) x y

theorem decodeWord_subnReg (x y : Nibble) : decodeWord (0x8#4 ++ x ++ y ++ 0x7#4) = some (.subnReg x y) :=
  decodeWord_register_row (r := opcodeTable[16]) (List.getElem_mem _) rfl (by decide) (fun _ => rfl) x y

theorem decodeWord_shlReg (x y : Nibble) : decodeWord (0x8#4 ++ x ++ y ++ 0xE#4) = some (.shlReg x y) :=
  decodeWord_register_row (r := opcodeTable[17]) (List.getElem_mem _) rfl (by decide) (fun _ => rfl) x y

theorem decodeWord_rnd (x : Nibble) (nn : Byte) : decodeWord (0xC#4 ++ x ++ nn) = some (.rnd x nn) :=
  decodeWord_immediate_row (r := opcodeTable[21]) (List.getElem_mem _) rfl (by decide) (fun _ => rfl) x nn

theorem fieldN_append (f x y n : Nibble) : fieldN (f ++ x ++ y ++ n) = n :=
  BitVec.extractLsb'_append_eq_right

theorem decodeWord_drw (x y n : Nibble) : decodeWord (0xD#4 ++ x ++ y ++ n) = some (.drw x y n) := by
  refine decodeWord_of_row (r := opcodeTable[22]) (List.getElem_mem _) ((mask_F000_nibbles ..).trans (by decide)) ?_
  exact (congrFun (congrArg₂ Instr.drw (fieldX_append_nibbles ..) (fieldY_append_nibbles ..)) _).trans
    (congrArg (Instr.drw x y) (fieldN_append ..))

theorem decodeWord_skp (x : Nibble) : decodeWord (0xE#4 ++ x ++ 0x9E#8) = some (.skp x) :=
  decodeWord_single_register_row (r := opcodeTable[23]) (List.getElem_mem _) rfl (by decide) (fun _ => rfl) x

theorem decodeWord_sknp (x : Nibble) : decodeWord (0xE#4 ++ x ++ 0xA1#8) = some (.sknp x) :=
  decodeWord_single_register_row (r := opcodeTable[24]) (List.getElem_mem _) rfl (by decide) (fun _ => rfl) x

theorem decodeWord_ldVxKey (x : Nibble) : decodeWord (0xF#4 ++ x ++ 0x0A#8) = some (.ldVxKey x) :=
  decodeWord_single_register_row (r := opcodeTable[26]) (List.getElem_mem _) rfl (by decide) (fun _ => rfl) x

theorem decodeWord_addI (x : Nibble) : decodeWord (0xF#4 ++ x ++ 0x1E#8) = some (.addI x) :=
  decodeWord_single_register_row (r := opcodeTable[29]) (List.getElem_mem _) rfl (by decide) (fun _ => rfl) x

theorem decodeWord_ldFont (x : Nibble) : decodeWord (0xF#4 ++ x ++ 0x29#8) = some (.ldFont x) :=
  decodeWord_single_register_row (r := opcodeTable[30]) (List.getElem_mem _) rfl (by decide) (fun _ => rfl) x

/-- Settles O4: each word of the encoder has the fixed digits of its own row, which reads its fields back. -/
theorem decodeOfEncode : Obligations.DecodeOfEncode := by
  intro i
  cases i with
  | cls => exact decodeWord_cls
  | ret => exact decodeWord_ret
  | jp nnn => exact decodeWord_jp nnn
  | call nnn => exact decodeWord_call nnn
  | seImm x nn => exact decodeWord_seImm x nn
  | sneImm x nn => exact decodeWord_sneImm x nn
  | seReg x y => exact decodeWord_seReg x y 0
  | ldImm x nn => exact decodeWord_ldImm x nn
  | addImm x nn => exact decodeWord_addImm x nn
  | ldReg x y => exact decodeWord_ldReg x y
  | orReg x y => exact decodeWord_orReg x y
  | andReg x y => exact decodeWord_andReg x y
  | xorReg x y => exact decodeWord_xorReg x y
  | addReg x y => exact decodeWord_addReg x y
  | subReg x y => exact decodeWord_subReg x y
  | shrReg x y => exact decodeWord_shrReg x y
  | subnReg x y => exact decodeWord_subnReg x y
  | shlReg x y => exact decodeWord_shlReg x y
  | sneReg x y => exact decodeWord_sneReg x y 0
  | ldI nnn => exact decodeWord_ldI nnn
  | jpV0 nnn => exact decodeWord_jpV0 nnn
  | rnd x nn => exact decodeWord_rnd x nn
  | drw x y n => exact decodeWord_drw x y n
  | skp x => exact decodeWord_skp x
  | sknp x => exact decodeWord_sknp x
  | ldVxDt x => exact decodeWord_ldVxDt x
  | ldVxKey x => exact decodeWord_ldVxKey x
  | ldDtVx x => exact decodeWord_ldDtVx x
  | ldStVx x => exact decodeWord_ldStVx x
  | addI x => exact decodeWord_addI x
  | ldFont x => exact decodeWord_ldFont x
  | ldBcd x => exact decodeWord_ldBcd x
  | storeRegs x => exact decodeWord_storeRegs x
  | loadRegs x => exact decodeWord_loadRegs x

/-- Settles O1: each word is its row's bit diagram at the operands named. -/
theorem writtenWordsDecode : Obligations.WrittenWordsDecode :=
  ⟨decodeWord_cls, decodeWord_call 0x300, decodeWord_ldImm 0xA 0x2B, decodeWord_shlReg 1 2, decodeWord_ldI 0x300,
    decodeWord_drw 0 1 5, decodeWord_sknp 5, decodeWord_loadRegs 4, decodeWord_seReg 1 2 1⟩

/-! ## A word from its fields -/

/-- The first digit of a word, which selects its family (R53). -/
def familyDigit (w : Word) : Nibble := w.extractLsb' 12 4

/-- Two neighbouring slices of a word, joined. -/
theorem extractLsb'_append_adjacent (w : Word) (k m n : Nat) :
    w.extractLsb' (k + n) m ++ w.extractLsb' k n = w.extractLsb' k (m + n) := by
  apply BitVec.eq_of_getLsbD_eq
  intro b hb
  simp only [BitVec.getLsbD_append, BitVec.getLsbD_extractLsb']
  by_cases hbn : b < n
  · simp [hbn, hb]
  · have hsplit : k + n + (b - n) = k + b := by omega
    have hbm : b - n < m := by omega
    simp [hbn, hb, hbm, hsplit]

theorem familyDigit_append_fieldNNN (w : Word) : familyDigit w ++ fieldNNN w = w :=
  (extractLsb'_append_adjacent w 0 4 12).trans BitVec.extractLsb'_eq_self

theorem fieldX_append_fieldNN (w : Word) : fieldX w ++ fieldNN w = fieldNNN w :=
  extractLsb'_append_adjacent w 0 4 8

theorem fieldY_append_fieldN (w : Word) : fieldY w ++ fieldN w = fieldNN w :=
  extractLsb'_append_adjacent w 0 4 4

theorem familyDigit_append_fieldX_append_fieldNN (w : Word) : familyDigit w ++ fieldX w ++ fieldNN w = w := by
  refine Eq.trans ?_ (familyDigit_append_fieldNNN w)
  rw [← fieldX_append_fieldNN]
  exact BitVec.append_assoc

theorem familyDigit_append_nibbles (w : Word) : familyDigit w ++ fieldX w ++ fieldY w ++ fieldN w = w := by
  refine Eq.trans ?_ (familyDigit_append_fieldX_append_fieldNN w)
  rw [← fieldY_append_fieldN]
  exact BitVec.append_assoc

/-- A slice that a row's mask fixes is the row's own in every word the row selects. -/
theorem OpRow.extractLsb'_of_selects {r : OpRow} {w : Word} (hw : r.selects w = true) {k n : Nat}
    (hmask : r.mask.extractLsb' k n = BitVec.allOnes n) : w.extractLsb' k n = r.value.extractLsb' k n := by
  rw [← (r.selects_iff w).mp hw, BitVec.extractLsb'_and, hmask, BitVec.and_allOnes]

/-! ## The rows of the map lose no bit of a word (R55, R56) -/

/-- The word of what the row makes of a word it selects is that word. -/
def OpRow.Faithful (r : OpRow) : Prop := ∀ w, r.selects w = true → encode (r.build w) = w

section
variable {r : OpRow} {f : Nibble} (hmask : r.mask.extractLsb' 12 4 = BitVec.allOnes 4)
  (hvalue : r.value.extractLsb' 12 4 = f)

include hmask hvalue in
theorem OpRow.familyDigit_of_selects {w : Word} (hw : r.selects w = true) : familyDigit w = f :=
  (extractLsb'_of_selects hw hmask).trans hvalue

include hmask hvalue

theorem OpRow.Faithful.addr {op : Addr → Instr} (hbuild : ∀ w, r.build w = op (fieldNNN w))
    (hencode : ∀ a, encode (op a) = f ++ a) : r.Faithful := by
  intro w hw
  rw [hbuild, hencode, ← r.familyDigit_of_selects hmask hvalue hw, familyDigit_append_fieldNNN]

theorem OpRow.Faithful.immediate {op : Nibble → Byte → Instr} (hbuild : ∀ w, r.build w = op (fieldX w) (fieldNN w))
    (hencode : ∀ x a, encode (op x a) = f ++ x ++ a) : r.Faithful := by
  intro w hw
  rw [hbuild, hencode, ← r.familyDigit_of_selects hmask hvalue hw, familyDigit_append_fieldX_append_fieldNN]

theorem OpRow.Faithful.nibbles {op : Nibble → Nibble → Nibble → Instr}
    (hbuild : ∀ w, r.build w = op (fieldX w) (fieldY w) (fieldN w))
    (hencode : ∀ x y n, encode (op x y n) = f ++ x ++ y ++ n) : r.Faithful := by
  intro w hw
  rw [hbuild, hencode, ← r.familyDigit_of_selects hmask hvalue hw, familyDigit_append_nibbles]

theorem OpRow.Faithful.registers {n : Nibble} {op : Nibble → Nibble → Instr}
    (hmaskN : r.mask.extractLsb' 0 4 = BitVec.allOnes 4) (hvalueN : r.value.extractLsb' 0 4 = n)
    (hbuild : ∀ w, r.build w = op (fieldX w) (fieldY w)) (hencode : ∀ x y, encode (op x y) = f ++ x ++ y ++ n) :
    r.Faithful := by
  intro w hw
  have hN : fieldN w = n := (extractLsb'_of_selects hw hmaskN).trans hvalueN
  rw [hbuild, hencode, ← r.familyDigit_of_selects hmask hvalue hw, ← hN, familyDigit_append_nibbles]

theorem OpRow.Faithful.register {nn : Byte} {op : Nibble → Instr}
    (hmaskNN : r.mask.extractLsb' 0 8 = BitVec.allOnes 8) (hvalueNN : r.value.extractLsb' 0 8 = nn)
    (hbuild : ∀ w, r.build w = op (fieldX w)) (hencode : ∀ x, encode (op x) = f ++ x ++ nn) : r.Faithful := by
  intro w hw
  have hNN : fieldNN w = nn := (extractLsb'_of_selects hw hmaskNN).trans hvalueNN
  rw [hbuild, hencode, ← r.familyDigit_of_selects hmask hvalue hw, ← hNN, familyDigit_append_fieldX_append_fieldNN]

end

/-- A row without fields selects one word. -/
theorem OpRow.Faithful.fixed {r : OpRow} {i : Instr} (hmask : r.mask = BitVec.allOnes 16)
    (hbuild : ∀ w, r.build w = i) (hencode : encode i = r.value) : r.Faithful := by
  intro w hw
  rw [hbuild, hencode, ← (r.selects_iff w).mp hw, hmask, BitVec.and_allOnes]

theorem opcodeTable_faithful : ∀ r ∈ opcodeTable, r.Faithful := by
  simp only [opcodeTable, List.cons_append, List.nil_append, List.forall_mem_cons]
  exact
    ⟨.fixed rfl (fun _ => rfl) rfl, -- 00E0
     .fixed rfl (fun _ => rfl) rfl, -- 00EE
     .addr rfl rfl (fun _ => rfl) (fun _ => rfl), -- 1NNN
     .addr rfl rfl (fun _ => rfl) (fun _ => rfl), -- 2NNN
     .immediate rfl rfl (fun _ => rfl) (fun _ _ => rfl), -- 3XNN
     .immediate rfl rfl (fun _ => rfl) (fun _ _ => rfl), -- 4XNN
     .registers rfl rfl rfl rfl (fun _ => rfl) (fun _ _ => rfl), -- 5XY0
     .immediate rfl rfl (fun _ => rfl) (fun _ _ => rfl), -- 6XNN
     .immediate rfl rfl (fun _ => rfl) (fun _ _ => rfl), -- 7XNN
     .registers rfl rfl rfl rfl (fun _ => rfl) (fun _ _ => rfl), -- 8XY0
     .registers rfl rfl rfl rfl (fun _ => rfl) (fun _ _ => rfl), -- 8XY1
     .registers rfl rfl rfl rfl (fun _ => rfl) (fun _ _ => rfl), -- 8XY2
     .registers rfl rfl rfl rfl (fun _ => rfl) (fun _ _ => rfl), -- 8XY3
     .registers rfl rfl rfl rfl (fun _ => rfl) (fun _ _ => rfl), -- 8XY4
     .registers rfl rfl rfl rfl (fun _ => rfl) (fun _ _ => rfl), -- 8XY5
     .registers rfl rfl rfl rfl (fun _ => rfl) (fun _ _ => rfl), -- 8XY6
     .registers rfl rfl rfl rfl (fun _ => rfl) (fun _ _ => rfl), -- 8XY7
     .registers rfl rfl rfl rfl (fun _ => rfl) (fun _ _ => rfl), -- 8XYE
     .registers rfl rfl rfl rfl (fun _ => rfl) (fun _ _ => rfl), -- 9XY0
     .addr rfl rfl (fun _ => rfl) (fun _ => rfl), -- ANNN
     .addr rfl rfl (fun _ => rfl) (fun _ => rfl), -- BNNN
     .immediate rfl rfl (fun _ => rfl) (fun _ _ => rfl), -- CXNN
     .nibbles rfl rfl (fun _ => rfl) (fun _ _ _ => rfl), -- DXYN
     .register rfl rfl rfl rfl (fun _ => rfl) (fun _ => rfl), -- EX9E
     .register rfl rfl rfl rfl (fun _ => rfl) (fun _ => rfl), -- EXA1
     .register rfl rfl rfl rfl (fun _ => rfl) (fun _ => rfl), -- FX07
     .register rfl rfl rfl rfl (fun _ => rfl) (fun _ => rfl), -- FX0A
     .register rfl rfl rfl rfl (fun _ => rfl) (fun _ => rfl), -- FX15
     .register rfl rfl rfl rfl (fun _ => rfl) (fun _ => rfl), -- FX18
     .register rfl rfl rfl rfl (fun _ => rfl) (fun _ => rfl), -- FX1E
     .register rfl rfl rfl rfl (fun _ => rfl) (fun _ => rfl), -- FX29
     .register rfl rfl rfl rfl (fun _ => rfl) (fun _ => rfl), -- FX33
     .register rfl rfl rfl rfl (fun _ => rfl) (fun _ => rfl), -- FX55
     .register rfl rfl rfl rfl (fun _ => rfl) (fun _ => rfl), -- FX65
     List.forall_mem_nil _⟩

/-- Settles O5: the word decodes by a row that selects it, and every row of the map keeps all bits of its words. -/
theorem encodeOfDecode : Obligations.EncodeOfDecode := by
  intro w i hd
  obtain ⟨r, hr, hw, rfl⟩ := decodeWord_row hd
  exact opcodeTable_faithful r hr w hw

/-- Settles O2: two rows that select one word are the same row. -/
theorem noTwoRowsSelectOneWord : Obligations.NoTwoRowsSelectOneWord := by
  intro w r hr q hq hrw hqw
  exact congrArg OpRow.mnemonic (opcodeTable_row_unique hr hq hrw hqw)

/-! ## The list of illegal words (R57) -/

/-- The value of a bit diagram: the high part above the low part. -/
theorem toNat_append_eq_add {m n : Nat} (hi : BitVec m) (lo : BitVec n) :
    (hi ++ lo).toNat = hi.toNat * 2 ^ n + lo.toNat := by
  rw [BitVec.toNat_append, ← Nat.shiftLeft_add_eq_or_of_lt lo.isLt, Nat.shiftLeft_eq]

section
variable (w : Word)

theorem toNat_familyDigit : (familyDigit w).toNat = w.toNat / 4096 := by
  rw [familyDigit, BitVec.extractLsb'_toNat, Nat.shiftRight_eq_div_pow]
  omega

theorem toNat_fieldNN : (fieldNN w).toNat = w.toNat % 256 := BitVec.extractLsb'_toNat ..

theorem toNat_fieldN : (fieldN w).toNat = w.toNat % 16 := BitVec.extractLsb'_toNat ..

/-- What a mask of the family digit alone leaves of a word. -/
theorem toNat_and_F000 : (w &&& 0xF000#16).toNat = w.toNat / 4096 * 4096 := by
  conv_lhs => rw [← familyDigit_append_fieldNNN w]
  have h : (familyDigit w ++ fieldNNN w) &&& (0xF000#16 : BitVec (4 + 12)) = familyDigit w ++ 0#12 :=
    mask_F000_addr ..
  refine (congrArg BitVec.toNat h).trans ?_
  simp only [toNat_append_eq_add, toNat_familyDigit, BitVec.toNat_zero]
  omega

/-- What a mask of the first and the last digit leaves of a word. -/
theorem toNat_and_F00F : (w &&& 0xF00F#16).toNat = w.toNat / 4096 * 4096 + w.toNat % 16 := by
  conv_lhs => rw [← familyDigit_append_nibbles w]
  have h : (familyDigit w ++ fieldX w ++ fieldY w ++ fieldN w) &&& (0xF00F#16 : BitVec (4 + 4 + 4 + 4)) =
      familyDigit w ++ 0#4 ++ 0#4 ++ fieldN w := mask_F00F ..
  refine (congrArg BitVec.toNat h).trans ?_
  simp only [toNat_append_eq_add, toNat_familyDigit, toNat_fieldN, BitVec.toNat_zero]
  omega

/-- What a mask of the first digit and NN leaves of a word. -/
theorem toNat_and_F0FF : (w &&& 0xF0FF#16).toNat = w.toNat / 4096 * 4096 + w.toNat % 256 := by
  conv_lhs => rw [← familyDigit_append_fieldX_append_fieldNN w]
  have h : (familyDigit w ++ fieldX w ++ fieldNN w) &&& (0xF0FF#16 : BitVec (4 + 4 + 8)) =
      familyDigit w ++ 0#4 ++ fieldNN w := mask_F0FF ..
  refine (congrArg BitVec.toNat h).trans ?_
  simp only [toNat_append_eq_add, toNat_familyDigit, toNat_fieldNN, BitVec.toNat_zero]
  omega

theorem toNat_and_FFFF : (w &&& 0xFFFF#16).toNat = w.toNat := congrArg BitVec.toNat (BitVec.and_allOnes)

/-- The families' checks say of the word's digits what the masks of the rows say of its bits. -/
theorem exists_row_selects_iff : (∃ r ∈ opcodeTable, r.selects w = true) ↔ wordWf w = true := by
  simp only [opcodeTable, List.cons_append, List.nil_append, List.exists_mem_cons_iff, List.not_mem_nil, false_and,
    exists_false, or_false, OpRow.selects, beq_iff_eq, ← BitVec.toNat_inj, toNat_and_FFFF, toNat_and_F000, toNat_and_F00F,
    toNat_and_F0FF, BitVec.ofNat_eq_ofNat, BitVec.reduceToNat]
  have hw := w.isLt
  unfold wordWf
  split
  · next hq =>
    simp only [wfFamily0, Bool.or_eq_true, beq_iff_eq]
    omega
  · next hq =>
    simp only [wfLowNibbleZero, beq_iff_eq]
    omega
  · next hq =>
    simp only [wfFamily8, Bool.or_eq_true, decide_eq_true_eq, beq_iff_eq]
    omega
  · next hq =>
    simp only [wfLowNibbleZero, beq_iff_eq]
    omega
  · next hq =>
    simp only [wfFamilyE, List.contains_iff_mem, List.mem_cons, List.not_mem_nil, or_false]
    omega
  · next hq =>
    simp only [wfFamilyF, List.contains_iff_mem, List.mem_cons, List.not_mem_nil, or_false]
    omega
  · next h0 h5 h8 h9 hE hF =>
    simp only [imp_false] at h0 h5 h8 h9 hE hF
    simp only [iff_true]
    omega

end

/-- Settles O3: a word is rejected when no row selects it, and the rows select exactly the well-formed words. -/
theorem decoderRejectsExactlyTheIllegalWords : Obligations.DecoderRejectsExactlyTheIllegalWords := by
  intro w
  rw [decodeWord_eq_none_iff, ← Bool.not_eq_true (wordWf w), ← exists_row_selects_iff]
  simp

/-- The decoder reads the first two bytes and answers by their word. -/
theorem decode_cons_cons (hi lo : Byte) (rest : List Byte) : decode (hi :: lo :: rest) =
    (decodeWord (joinBytes hi lo)).elim (.error (.unknownOpcode (joinBytes hi lo))) fun i => .ok (i, rest) := by
  rw [decode]
  cases decodeWord (joinBytes hi lo) <;> rfl

/-- Settles O6: the word of the statement is the two bytes joined, and the decoder answers by that word. -/
theorem decoderConsumesTwoBytes : Obligations.DecoderConsumesTwoBytes := by
  refine ⟨?_, rfl, fun _ => rfl⟩
  intro hi lo rest w hw
  obtain rfl : w = joinBytes hi lo := BitVec.eq_of_toNat_eq (hw.trans (Machine.toNat_joinBytes hi lo).symm)
  rw [decode_cons_cons]
  constructor
  · intro i hd
    rw [hd, Option.elim_some]
  · intro hd
    rw [hd, Option.elim_none]

end Sys2Proof
end

section
/-! The statements of 41_control_flow.md and 42_alu.md about the call stack, the flag arithmetic and the random byte. -/

namespace Sys2Proof.Machine

/-! ## The call stack (R70, R72) -/

section
variable (s : State)

theorem exec_ret_of_ne_zero (h : s.sp.val ≠ 0) : exec .ret s = .next (s.pop.setPc (s.top + 2)) := if_neg h

theorem exec_ret_of_eq_zero (h : s.sp.val = 0) :
    exec .ret s = .next (s.latch (.outOfBounds .stackUnderflow s.pc.toNat s.pc)) := if_pos h

theorem exec_call_of_lt (nnn : Addr) (h : s.sp.val < 16) :
    exec (.call nnn) s = .next ((s.push h s.pc).setPc (zextAddr nnn)) := dif_pos h

theorem exec_call_of_not_lt (nnn : Addr) (h : ¬ s.sp.val < 16) :
    exec (.call nnn) s = .next (s.latch (.outOfBounds .stackOverflow s.pc.toNat s.pc)) := dif_neg h

/-- The frame of a return: each other component is read back by its own laws. -/
theorem State.onlyWrites_pop_setPc (w : Word) : OnlyWrites [.sp, .pc] s (s.pop.setPc w) := by
  intro c hc
  cases c with
  | sp | pc => simp at hc
  | _ => simp [Component.agree]

/-- The frame of a call: each other component is read back by its own laws. -/
theorem State.onlyWrites_push_setPc (h : s.sp.val < 16) (w w' : Word) :
    OnlyWrites [.stack, .sp, .pc] s ((s.push h w).setPc w') := by
  intro c hc
  cases c with
  | stack | sp | pc => simp at hc
  | _ => simp [Component.agree]

/-- The popped entry is the last valid one (R20). -/
theorem State.top_eq_getElem {k : Nat} (hk : k < 16) (hsp : s.sp.val = k + 1) : s.top = s.stack[k] := by
  simp [State.top, hsp]

/-- The popped entry depends on the stack and its depth only. -/
theorem State.top_congr {t : State} (hsp : t.sp = s.sp) (hstack : t.stack = s.stack) : t.top = s.top := by
  simp only [State.top, hsp, hstack]

end

/-- Settles O25: below depth 16 the call is one push and one write to pc, at depth 16 it raises. -/
theorem callPushesTheCallSite : Obligations.CallPushesTheCallSite := by
  intro s nnn
  constructor
  · intro h
    exact ⟨_, exec_call_of_lt s nnn h, rfl, toNat_zextAddr nnn, s.stack_push h s.pc, s.onlyWrites_push_setPc h _ _⟩
  · intro h
    exact exec_call_of_not_lt s nnn (by omega)

/-- Settles O26: above an empty stack the return is one pop and one write to pc, at an empty stack it raises. -/
theorem returnPopsTheCallSite : Obligations.ReturnPopsTheCallSite := by
  intro s
  constructor
  · intro k hk hsp
    refine ⟨_, exec_ret_of_ne_zero s (by omega), ?_, ?_, s.onlyWrites_pop_setPc _⟩
    · simp [hsp]
    · rw [State.setPc_pc, s.top_eq_getElem hk hsp]
  · exact exec_ret_of_eq_zero s

/-- Settles O27: the return pops the entry the call pushed, since the stack is as the call left it. -/
theorem returnUndoesCall : Obligations.ReturnUndoesCall := by
  intro s t u nnn h hcall hsp hstack
  obtain rfl : (s.push h s.pc).setPc (zextAddr nnn) = t :=
    Host.Outcome.next.inj ((exec_call_of_lt s nnn h).symm.trans hcall)
  have hdepth : u.sp.val = s.sp.val + 1 := congrArg Fin.val hsp
  have htop : u.top = s.pc := (State.top_congr _ hsp hstack).trans (s.top_push h s.pc)
  refine ⟨_, exec_ret_of_ne_zero u (by omega), ?_, ?_⟩
  · rw [State.setPc_pc, htop]
  · apply Fin.ext
    simp [hdepth]

/-! ## Flags (R78, R79) -/

theorem toNat_flagByte (b : Bool) : (flagByte b).toNat = if b = true then 1 else 0 := by cases b <;> rfl

theorem toNat_carryFlag (a b : Byte) : (carryFlag a b).toNat = if 255 < a.toNat + b.toNat then 1 else 0 := by
  simp [carryFlag, toNat_flagByte]

theorem toNat_notBorrowFlag (a b : Byte) : (notBorrowFlag a b).toNat = if a.toNat < b.toNat then 0 else 1 := by
  by_cases h : a.toNat < b.toNat <;> simp [notBorrowFlag, toNat_flagByte, h]

theorem toNat_lowBitFlag (v : Byte) : (lowBitFlag v).toNat = v.toNat % 2 := by
  rw [lowBitFlag, toNat_flagByte, ← BitVec.testBit_toNat, Nat.testBit_zero]
  simp only [decide_eq_true_eq]
  split <;> omega

theorem toNat_highBitFlag (v : Byte) : (highBitFlag v).toNat = v.toNat / 128 := by
  rw [highBitFlag, toNat_flagByte, ← BitVec.testBit_toNat, Nat.testBit_eq_decide_div_mod_eq]
  simp only [decide_eq_true_eq]
  split <;> omega

theorem toNat_sub_byte (a b : Byte) : (a - b).toNat = (256 + a.toNat - b.toNat) % 256 := by
  rw [BitVec.toNat_sub]
  omega

section
variable (s : State) (x : Nibble)

/-- All that `WriteRF` and the advance do, for a result and a flag given by their values (R79). -/
theorem State.writeRF_advance_effect {r f : Byte} {result flag : Nat} (hr : r.toNat = result) (hf : f.toNat = flag) :
    (s.writeRF x r f).advance.pc = s.pc + 2 ∧ FlagResult s (s.writeRF x r f).advance x result flag ∧
      OnlyWrites [.v, .pc] s (s.writeRF x r f).advance := by
  refine ⟨?_, ?_, onlyWrites_writeRF_advance s x r f⟩
  · rw [State.advance_pc, State.writeRF_v_only]
  · intro q
    rw [State.advance_readV, State.readV_writeRF, apply_ite BitVec.toNat, apply_ite BitVec.toNat, hr, hf]

variable (y : Nibble)

theorem exec_addReg : exec (.addReg x y) s =
    .next (s.writeRF x (s.readV x + s.readV y) (carryFlag (s.readV x) (s.readV y))).advance := rfl

theorem exec_subReg : exec (.subReg x y) s =
    .next (s.writeRF x (s.readV x - s.readV y) (notBorrowFlag (s.readV x) (s.readV y))).advance := rfl

theorem exec_subnReg : exec (.subnReg x y) s =
    .next (s.writeRF x (s.readV y - s.readV x) (notBorrowFlag (s.readV y) (s.readV x))).advance := rfl

theorem exec_shrReg : exec (.shrReg x y) s =
    .next (s.writeRF x (s.shrSource x y >>> 1) (lowBitFlag (s.shrSource x y))).advance := rfl

theorem exec_shlReg : exec (.shlReg x y) s =
    .next (s.writeRF x (s.shlSource x y <<< 1) (highBitFlag (s.shlSource x y))).advance := rfl

/-- The source of 8XY6 in the three modes (R80). -/
theorem State.shrSource_eq : s.shrSource x y = s.readV (if s.cfg.shiftMode = .vx then x else y) := by
  unfold State.shrSource
  cases s.cfg.shiftMode <;> rfl

/-- The source of 8XYE in the three modes (R80). -/
theorem State.shlSource_eq : s.shlSource x y = s.readV (if s.cfg.shiftMode = .vy then y else x) := by
  unfold State.shlSource
  cases s.cfg.shiftMode <;> rfl

end

/-- Settles O30: one `WriteRF` of the sum of the bytes and of their carry. -/
theorem addWritesSumAndCarry : Obligations.AddWritesSumAndCarry := by
  intro s x y
  exact ⟨_, exec_addReg s x y, s.writeRF_advance_effect x (BitVec.toNat_add _ _) (toNat_carryFlag _ _)⟩

/-- Settles O31: one `WriteRF` each, of the difference of the bytes in either order and of not-borrow. -/
theorem subtractionsWriteDifferenceAndNotBorrow : Obligations.SubtractionsWriteDifferenceAndNotBorrow := by
  intro s x y
  constructor
  · exact ⟨_, exec_subReg s x y, s.writeRF_advance_effect x (toNat_sub_byte _ _) (toNat_notBorrowFlag _ _)⟩
  · exact ⟨_, exec_subnReg s x y, s.writeRF_advance_effect x (toNat_sub_byte _ _) (toNat_notBorrowFlag _ _)⟩

/-- Settles O32: one `WriteRF` each, of the shifted source and of the bit shifted out; the mode selects the source. -/
theorem shiftsWriteResultAndBitShiftedOut : Obligations.ShiftsWriteResultAndBitShiftedOut := by
  intro s x y
  constructor
  · have hresult : (s.shrSource x y >>> 1).toNat = (s.shrSource x y).toNat / 2 := by
      rw [BitVec.toNat_ushiftRight, Nat.shiftRight_eq_div_pow]
    obtain ⟨hpc, hflag, hframe⟩ := s.writeRF_advance_effect x hresult (toNat_lowBitFlag _)
    exact ⟨_, _, exec_shrReg s x y, hpc, congrArg BitVec.toNat (s.shrSource_eq x y), hflag, hframe⟩
  · have hresult : (s.shlSource x y <<< 1).toNat = (s.shlSource x y).toNat * 2 % 256 := by
      rw [BitVec.toNat_shiftLeft, Nat.shiftLeft_eq]
    obtain ⟨hpc, hflag, hframe⟩ := s.writeRF_advance_effect x hresult (toNat_highBitFlag _)
    exact ⟨_, _, exec_shlReg s x y, hpc, congrArg BitVec.toNat (s.shlSource_eq x y), hflag, hframe⟩

/-! ## The random byte (R92) -/

theorem exec_rnd (s : State) (x : Nibble) (nn : Byte) :
    exec (.rnd x nn) s = .next (s.rndWith (Config.freeRand s.draws) x nn) := rfl

theorem State.readV_rndWith (s : State) (r : Byte) (x : Nibble) (nn : Byte) (q : Nibble) :
    (s.rndWith r x nn).readV q = if q = x then r &&& nn else s.readV q := by
  rw [State.rndWith, State.advance_readV, State.drew_readV, State.readV_writeV]

/-- The frame of CXNN: each other component is read back by its own laws. -/
theorem State.onlyWrites_rndWith (s : State) (r : Byte) (x : Nibble) (nn : Byte) :
    OnlyWrites [.v, .draws, .pc] s (s.rndWith r x nn) := by
  intro c hc
  cases c with
  | v | draws | pc => simp at hc
  | _ => simp [Component.agree, State.rndWith]

/-- Settles O33: the drawn byte is free, and whichever it is the instruction writes its AND with NN. -/
theorem randomByteIsMasked : Obligations.RandomByteIsMasked := by
  intro s x nn
  refine ⟨exec_rnd s x nn, fun r => ⟨rfl, rfl, ?_, ?_, s.onlyWrites_rndWith r x nn⟩⟩
  · intro b _
    rw [State.readV_rndWith, if_pos rfl, BitVec.getLsbD_and]
  · intro q hq
    rw [State.readV_rndWith, if_neg hq]

end Sys2Proof.Machine
end

section
/-! The statements of 43_index_memory.md and 20_memory.md about the index register, stores that are fetched, and the
representation of memory. -/

namespace Sys2Proof.Machine

section
variable (s : State) (x : Nibble)

theorem exec_addI : exec (.addI x) s = .next (s.setI (s.i + zextByte (s.readV x))).advance := rfl

theorem exec_ldFont : exec (.ldFont x) s = .next (s.setI (glyphAddress (s.readV x))).advance := rfl

end

/-- The address of a glyph fits 16 bits for every value of the register (R96). -/
theorem toNat_glyphAddress (b : Byte) : (glyphAddress b).toNat = 0x050 + 5 * b.toNat := by
  have hb := toNat_zextByte b
  simp only [glyphAddress, BitVec.toNat_add, BitVec.toNat_mul, BitVec.ofNat_eq_ofNat, BitVec.toNat_ofNat, hb]
  omega

/-- Settles O35: both instructions are one write to I, and no flag. -/
theorem addToIndexAndFontAddress : Obligations.AddToIndexAndFontAddress := by
  intro s x
  constructor
  · refine ⟨_, exec_addI s x, ?_, State.advance_pc _, s.onlyWrites_setI_advance _⟩
    rw [State.advance_i, State.setI_i, BitVec.toNat_add, toNat_zextByte]
  · exact ⟨_, exec_ldFont s x, toNat_glyphAddress _, State.advance_pc _, s.onlyWrites_setI_advance _⟩

/-- Settles O39: the two bytes a later fetch reads at a stored pair are those the store wrote for it. -/
theorem storedBytesAreFetched : Obligations.StoredBytesAreFetched := by
  intro s t u x k j hm hin hstore hj hjx hmem hpc
  obtain rfl : (s.writeBytes s.i.toNat (s.regBlock x)).advance = t :=
    Host.Outcome.next.inj ((exec_storeRegs_of_in_memory s x hin).symm.trans hstore)
  have stored {q : Nibble} (hq : q.toNat ≤ x.toNat) : u.readByte (s.i.toNat + q.toNat) = s.readV q :=
    (hmem _).trans (s.readByte_writeBytes_regBlock _ hm hq)
  have hnext : s.i.toNat + k.toNat + 1 = s.i.toNat + j.toNat := by omega
  rw [State.toNat_fetchWord, hpc, hnext, stored (by omega), stored hjx]

/-! ## Canonical memories (R38; log 35) -/

section
variable (font : Font)

/-- An address below every listed one reads as at creation. -/
theorem Memory.read_of_lt {m : Memory} {a : Nat} (h : ∀ c ∈ m, a < c.1) :
    Memory.read font m a = unlistedByte font a := by
  induction m with
  | nil => rfl
  | cons c m ih =>
    obtain ⟨hc, hm⟩ := List.forall_mem_cons.mp h
    rw [Memory.read, if_neg (Nat.ne_of_lt hc)]
    exact ih hm

theorem Memory.read_cons_same (a : Nat) (v : Byte) (m : Memory) : Memory.read font ((a, v) :: m) a = v := if_pos rfl

theorem Memory.read_cons_other {a p : Nat} (v : Byte) (m : Memory) (h : p ≠ a) :
    Memory.read font ((a, v) :: m) p = Memory.read font m p := if_neg h

variable {font}

/-- A canonical memory is a listed byte that differs from creation, above it only higher addresses, and a canonical rest. -/
theorem Memory.wf_cons {a : Nat} {v : Byte} {m : Memory} (h : Memory.wf font ((a, v) :: m)) :
    v ≠ unlistedByte font a ∧ (∀ c ∈ m, a < c.1) ∧ Memory.wf font m := by
  obtain ⟨hsorted, hcells⟩ := h
  obtain ⟨habove, hrest⟩ := List.pairwise_cons.mp hsorted
  obtain ⟨⟨-, hv⟩, hcells⟩ := List.forall_mem_cons.mp hcells
  exact ⟨hv, habove, hrest, hcells⟩

/-- The least listed address of a canonical memory tells it from a memory that lists only higher addresses. -/
theorem Memory.read_cons_ne_of_lt {a : Nat} {v : Byte} {m n : Memory} (h : Memory.wf font ((a, v) :: m))
    (hn : ∀ c ∈ n, a < c.1) : Memory.read font ((a, v) :: m) a ≠ Memory.read font n a := by
  rw [Memory.read_cons_same, Memory.read_of_lt font hn]
  exact (Memory.wf_cons h).1

/-- Two canonical memories that read the same list the same address first. -/
theorem Memory.head_not_lt {a b : Nat} {v w : Byte} {m n : Memory} (hm : Memory.wf font ((a, v) :: m))
    (hn : Memory.wf font ((b, w) :: n))
    (h : ∀ p, Memory.read font ((a, v) :: m) p = Memory.read font ((b, w) :: n) p) : ¬ a < b := by
  intro hlt
  obtain ⟨-, habove, -⟩ := Memory.wf_cons hn
  refine Memory.read_cons_ne_of_lt hm ?_ (h a)
  exact List.forall_mem_cons.mpr ⟨hlt, fun c hc => Nat.lt_trans hlt (habove c hc)⟩

theorem Memory.ext_of_wf {m n : Memory} (hm : Memory.wf font m) (hn : Memory.wf font n)
    (h : ∀ a, Memory.read font m a = Memory.read font n a) : m = n := by
  induction m generalizing n with
  | nil =>
    cases n with
    | nil => rfl
    | cons d n => exact absurd (h d.1).symm (Memory.read_cons_ne_of_lt hn (by simp))
  | cons c m ih =>
    obtain ⟨a, v⟩ := c
    cases n with
    | nil => exact absurd (h a) (Memory.read_cons_ne_of_lt hm (by simp))
    | cons d n =>
      obtain ⟨b, w⟩ := d
      obtain rfl : a = b :=
        Nat.le_antisymm (Nat.not_lt.mp (Memory.head_not_lt hn hm fun p => (h p).symm))
          (Nat.not_lt.mp (Memory.head_not_lt hm hn h))
      obtain rfl : v = w := by simpa only [Memory.read_cons_same] using h a
      obtain ⟨-, hma, hm⟩ := Memory.wf_cons hm
      obtain ⟨-, hna, hn⟩ := Memory.wf_cons hn
      have hrest (p : Nat) : Memory.read font m p = Memory.read font n p := by
        by_cases hp : p = a
        · rw [hp, Memory.read_of_lt font hma, Memory.read_of_lt font hna]
        · simpa only [Memory.read_cons_other font v _ hp] using h p
      rw [ih hm hn hrest]

end

/-- Settles O40: by induction along the two lists, comparing their least listed addresses. -/
theorem canonicalMemoriesAreExtensional : Obligations.CanonicalMemoriesAreExtensional :=
  fun _ _ _ hm hn h => Memory.ext_of_wf hm hn h

end Sys2Proof.Machine
end

section
/-! The statements of 44_display.md: the clear, the draw and the second draw. -/

namespace Sys2Proof.Machine

/-! ## The clear (R102) -/

theorem exec_cls (s : State) : exec .cls s = .next ((s.setPix Frame.blank).setDirty true).advance := rfl

/-- The frame of a write to the display: each other component is read back by its own laws. -/
theorem State.onlyWrites_setPix_setDirty_advance (s : State) (f : Frame) (d : Bool) :
    OnlyWrites [.pix, .dirty, .pc] s ((s.setPix f).setDirty d).advance := by
  intro c hc
  cases c with
  | pix | dirty | pc => simp at hc
  | _ => simp [Component.agree]

/-- Settles O41: the clear is one write of the blank frame. -/
theorem clearDisplay : Obligations.ClearDisplay := by
  intro s
  exact ⟨_, exec_cls s, Frame.at_blank, State.advance_dirty _, State.advance_pc _,
    s.onlyWrites_setPix_setDirty_advance _ _⟩

/-! ## The draw (R103) -/

section
variable (s : State) (x y n : Nibble)

/-- The state after a draw that is in memory (R103). -/
def State.afterDraw : State :=
  (((s.setPix (s.drawn x y n).1).writeV flagReg (flagByte (s.drawn x y n).2)).setDirty true).advance

theorem exec_drw : exec (.drw x y n) s = ifInMemory n.toNat s (s.afterDraw x y n) := rfl

/-- A sprite of no rows reads no memory, so it is in memory whatever I is. -/
theorem exec_drw_of_in_memory (h : n.toNat = 0 ∨ s.i.toNat + n.toNat ≤ 4096) :
    exec (.drw x y n) s = .next (s.afterDraw x y n) := by
  rw [exec_drw]
  obtain ⟨-, hnext⟩ | ⟨⟨hn, hout⟩, -⟩ := ifInMemory_cases s n.toNat (s.afterDraw x y n)
  · exact hnext
  · omega

theorem State.afterDraw_pix : (s.afterDraw x y n).pix = (s.drawn x y n).1 := rfl

theorem State.afterDraw_readV (q : Nibble) :
    (s.afterDraw x y n).readV q = if q = 0xF then flagByte (s.drawn x y n).2 else s.readV q := by
  rw [State.afterDraw, State.advance_readV, State.setDirty_readV, State.readV_writeV, State.setPix_readV]
  rfl

/-- The frame of a draw: each other component is read back by its own laws. -/
theorem State.onlyWrites_afterDraw : OnlyWrites [.v, .pix, .dirty, .pc] s (s.afterDraw x y n) := by
  intro c hc
  cases c with
  | v | pix | dirty | pc => simp at hc
  | _ => simp [Component.agree, State.afterDraw]

/-- The pixels under the rows read from memory are those of R100 and R101. -/
theorem spriteCovers_iff_rowCovers (px : Fin 64) (py : Fin 32) :
    SpriteCovers s x y n px py ↔ ∃ k, ∃ h : k < (s.readBytes s.i.toNat n.toNat).length,
      RowCovers (s.readV x) (spriteRow (s.readV y) (0 + k)) (s.readBytes s.i.toNat n.toNat)[k] 8 px py := by
  simp only [State.length_readBytes, State.getElem_readBytes, Nat.zero_add]
  constructor
  · rintro ⟨r, c, hr, hc, hbit, hx, hy⟩
    exact ⟨r, hr, Fin.ext hy, c, hc, hbit, Fin.ext hx⟩
  · rintro ⟨r, hr, hy, c, hc, hbit, hx⟩
    exact ⟨r, c, hr, hc, hbit, congrArg Fin.val hx, congrArg Fin.val hy⟩

/-- A draw toggles the pixels the sprite covers, each once. -/
theorem toggled_drawn : Toggled (SpriteCovers s x y n) (s.pix, false) (s.drawn x y n) := by
  have hrows : 0 + (s.readBytes s.i.toNat n.toNat).length ≤ 16 := by
    rw [State.length_readBytes]
    omega
  exact (toggled_drawRows _ _ _ 0 hrows _).congr (spriteCovers_iff_rowCovers s x y n)

/-- The collision of a draw: the sprite covers a pixel that was set. -/
theorem drawn_hit_iff : (s.drawn x y n).2 = true ↔ ∃ px py, SpriteCovers s x y n px py ∧ s.pix.at px py = true := by
  simpa using (toggled_drawn s x y n).hit

theorem State.afterDraw_flag_eq_one_iff :
    (s.afterDraw x y n).readV 0xF = 1 ↔ ∃ px py, SpriteCovers s x y n px py ∧ s.pix.at px py = true := by
  rw [State.afterDraw_readV, if_pos rfl, ← drawn_hit_iff]
  cases (s.drawn x y n).2 <;> decide

/-- The pixels a sprite covers depend on I, the sprite's bytes and the two registers only. -/
theorem spriteCovers_congr {u : State} (hi : u.i = s.i) (hmem : ∀ a, u.readByte a = s.readByte a)
    (hx : u.readV x = s.readV x) (hy : u.readV y = s.readV y) (px : Fin 64) (py : Fin 32) :
    SpriteCovers u x y n px py ↔ SpriteCovers s x y n px py := by
  simp only [SpriteCovers, hi, hmem, hx, hy]

end

/-- Settles O42: the draw toggles the covered pixels, and its flag is the collision. -/
theorem drawXorsTheSprite : Obligations.DrawXorsTheSprite := by
  intro s x y n hin
  have htoggled := toggled_drawn s x y n
  refine ⟨_, exec_drw_of_in_memory s x y n hin, htoggled.on, htoggled.off, ?_, ?_, ?_, rfl, rfl,
    s.onlyWrites_afterDraw x y n⟩
  · exact (s.afterDraw_flag_eq_one_iff x y n).mpr
  · intro hclear
    have hmiss : (s.drawn x y n).2 = false := by
      refine Bool.eq_false_iff.mpr fun hhit => ?_
      obtain ⟨px, py, hcov, hset⟩ := (drawn_hit_iff s x y n).mp hhit
      rw [hclear px py hcov] at hset
      exact Bool.false_ne_true hset
    rw [State.afterDraw_readV, if_pos rfl, hmiss]
    rfl
  · intro q hq
    rw [State.afterDraw_readV, if_neg hq]

/-- Settles O43: the memory guard raises before anything is drawn. -/
theorem drawOutsideMemoryRaises : Obligations.DrawOutsideMemoryRaises := by
  intro s x y n hn hout
  exact (exec_drw s x y n).trans (ifInMemory_of_gt s hn (by omega) _)

/-- Settles O44: the second draw covers the same pixels and finds each of them toggled. -/
theorem drawingTwiceRestoresTheDisplay : Obligations.DrawingTwiceRestoresTheDisplay := by
  intro s t u x y n hin hdraw hpix hi hmem hx hy
  obtain rfl : s.afterDraw x y n = t := Host.Outcome.next.inj ((exec_drw_of_in_memory s x y n hin).symm.trans hdraw)
  have hcovers := spriteCovers_congr s x y n hi hmem hx hy
  have hfirst := toggled_drawn s x y n
  have hsecond := (toggled_drawn u x y n).congr fun px py => (hcovers px py).symm
  rw [State.afterDraw_pix] at hpix
  refine ⟨_, exec_drw_of_in_memory u x y n (hi ▸ hin), ?_, ?_⟩
  · intro px py
    rw [State.afterDraw_pix]
    by_cases hcov : SpriteCovers s x y n px py
    · rw [hsecond.on px py hcov, hpix, hfirst.on px py hcov, Bool.not_not]
    · rw [hsecond.off px py hcov, hpix, hfirst.off px py hcov]
  · rw [State.afterDraw_flag_eq_one_iff]
    refine exists_congr fun px => exists_congr fun py => ?_
    rw [hcovers px py, hpix]
    refine and_congr_right fun hcov => ?_
    rw [hfirst.on px py hcov, Bool.not_eq_true']

end Sys2Proof.Machine
end

section
/-! The statements of 45_keys_timers.md about the keys, and those of 40_cycle.md about the pending key wait. -/

namespace Sys2Proof.Machine

/-! ## The key skips (R105 to R107) -/

section
variable (s : State)

/-- Only a key index can be pressed. -/
theorem State.lt_of_keyDown {k : Nat} (h : s.keyDown k = true) : k < 16 := by
  by_contra hk
  simp [State.keyDown, hk] at h

/-- Consuming a key that is not pressed changes nothing. -/
theorem State.consumeKey_of_not_keyDown {k : Nat} (h : s.keyDown k = false) : s.consumeKey k = s := by
  have hkey : s.key.setIfInBounds k false = s.key := by
    apply Vector.ext
    intro j hj
    rw [Vector.getElem_setIfInBounds]
    split
    · next hkj =>
      subst hkj
      simpa [State.keyDown, hj] using h.symm
    · rfl
  rw [State.consumeKey, hkey]

variable (x : Nibble)

theorem exec_skp_of_lt (h : (s.readV x).toNat < 16) : exec (.skp x) s =
    .next ((s.consumeKey (s.readV x).toNat).skipIf (s.keyDown (s.readV x).toNat)) := by
  refine (if_neg (Nat.not_le.mpr h)).trans ?_
  cases hk : s.keyDown (s.readV x).toNat with
  | true => rfl
  | false => rw [s.consumeKey_of_not_keyDown hk]; rfl

theorem exec_sknp_of_lt (h : (s.readV x).toNat < 16) : exec (.sknp x) s =
    .next ((s.consumeKey (s.readV x).toNat).skipIf !s.keyDown (s.readV x).toNat) := by
  refine (if_neg (Nat.not_le.mpr h)).trans ?_
  cases hk : s.keyDown (s.readV x).toNat with
  | true => rfl
  | false => rw [s.consumeKey_of_not_keyDown hk]; rfl

theorem exec_skp_of_ge (h : 16 ≤ (s.readV x).toNat) : exec (.skp x) s = .next (s.latch (s.keyFault x)) := if_pos h

theorem exec_sknp_of_ge (h : 16 ≤ (s.readV x).toNat) : exec (.sknp x) s = .next (s.latch (s.keyFault x)) := if_pos h

/-- The frame of a consumed key and a skip: each other component is read back by its own laws. -/
theorem State.onlyWrites_consumeKey_skipIf (k : Nat) (c : Bool) :
    OnlyWrites [.key, .pc] s ((s.consumeKey k).skipIf c) := by
  intro a ha
  cases a with
  | key | pc => simp at ha
  | _ => simp [Component.agree]

end

/-- Settles O45: with a key index each skip consumes the key and writes pc, with any other value it raises. -/
theorem keySkipsConsumeThePressedKey : Obligations.KeySkipsConsumeThePressedKey := by
  rintro s x k rfl
  refine ⟨?_, ?_, ?_⟩
  · intro hk
    refine ⟨_, exec_skp_of_lt s x hk, ?_, s.keyDown_consumeKey _, s.onlyWrites_consumeKey_skipIf _ _⟩
    rw [State.skipIf_pc, State.consumeKey_pc, apply_ite (s.pc + ·)]
  · intro hk
    refine ⟨_, exec_sknp_of_lt s x hk, ?_, s.keyDown_consumeKey _, s.onlyWrites_consumeKey_skipIf _ _⟩
    rw [State.skipIf_pc, State.consumeKey_pc]
    cases s.keyDown (s.readV x).toNat <;> rfl
  · exact fun hk => ⟨exec_skp_of_ge s x hk, exec_sknp_of_ge s x hk⟩

/-! ## Capture and wait (R65, R108) -/

section
variable (s : State) (x : Nibble)

theorem exec_ldVxKey_of_leastKey {k : Nat} (h : s.leastKey = some k) :
    exec (.ldVxKey x) s = .next (s.captureKey x k) := by
  simp only [exec, execLdVxKey, h]

theorem exec_ldVxKey_of_no_key (h : s.leastKey = none) : exec (.ldVxKey x) s = .next (s.setKw (some x)) := by
  simp only [exec, execLdVxKey, h]

theorem State.keyWait_of_leastKey {k : Nat} (h : s.leastKey = some k) :
    s.keyWait x = (s.setKw none).captureKey x k := by
  simp only [State.keyWait, h]

theorem State.keyWait_of_no_key (h : s.leastKey = none) : s.keyWait x = s := by
  simp only [State.keyWait, h]

/-- A pressed key below which none is pressed is the least one. -/
theorem State.leastKey_of_keyDown {k : Nat} (hk : s.keyDown k = true) (hleast : ∀ j, j < k → s.keyDown j = false) :
    s.leastKey = some k := (s.leastKey_eq_some k).mpr ⟨hk, s.lt_of_keyDown hk, hleast⟩

/-- A captured key is its index in the destination. -/
theorem State.toNat_readV_captureKey {k : Nat} (hk : k < 16) (q : Nibble) :
    ((s.captureKey x k).readV q).toNat = if q = x then k else (s.readV q).toNat := by
  rw [State.captureKey, State.advance_readV, State.consumeKey_readV, State.readV_writeV, apply_ite BitVec.toNat,
    BitVec.toNat_ofNat, Nat.mod_eq_of_lt (by omega)]

theorem State.keyDown_captureKey (k j : Nat) :
    (s.captureKey x k).keyDown j = if j = k then false else s.keyDown j := by
  rw [State.captureKey, State.advance_keyDown, State.keyDown_consumeKey, State.writeV_keyDown]

/-- The frame of a capture: each other component is read back by its own laws. -/
theorem State.onlyWrites_captureKey (k : Nat) : OnlyWrites [.v, .key, .pc] s (s.captureKey x k) := by
  intro c hc
  cases c with
  | v | key | pc => simp at hc
  | _ => simp [Component.agree, State.captureKey]

/-- The frame of a capture that ends a pending wait. -/
theorem State.onlyWrites_setKw_captureKey (k : Nat) :
    OnlyWrites [.v, .key, .kw, .pc] s ((s.setKw none).captureKey x k) := by
  intro c hc
  cases c with
  | v | key | kw | pc => simp at hc
  | _ => simp [Component.agree, State.captureKey]

/-- The frame of a write to the key-wait latch: each other component is read back by its own laws. -/
theorem State.onlyWrites_setKw (r : Option Nibble) : OnlyWrites [.kw] s (s.setKw r) := by
  intro c hc
  cases c with
  | kw => exact absurd (List.mem_singleton_self _) hc
  | _ => simp [Component.agree]

end

/-- Settles O46: the instruction captures the least pressed key, or writes the latch only. -/
theorem keyWaitCapturesOrLatches : Obligations.KeyWaitCapturesOrLatches := by
  intro s x
  constructor
  · intro k hk hleast
    exact ⟨_, exec_ldVxKey_of_leastKey s x (s.leastKey_of_keyDown hk hleast), rfl,
      s.toNat_readV_captureKey x (s.lt_of_keyDown hk), s.keyDown_captureKey x k, s.onlyWrites_captureKey x k⟩
  · intro hnone
    exact ⟨_, exec_ldVxKey_of_no_key s x (s.leastKey_eq_none.mpr hnone), rfl, s.onlyWrites_setKw _⟩

/-- The step of a pending wait is `StepKeyWait` (R65). -/
theorem step_of_kw {s : State} {x : Nibble} (herr : s.err = none) (hkw : s.kw = some x) :
    step s = .next (s.keyWait x) := by
  simp only [step, herr, hkw]

/-- Settles O13: with no key the wait goes on, otherwise it ends by the capture of the least key. -/
theorem pendingKeyWaitStep : Obligations.PendingKeyWaitStep := by
  intro s x herr hkw
  rw [step_of_kw herr hkw]
  constructor
  · intro hnone
    rw [s.keyWait_of_no_key x (s.leastKey_eq_none.mpr hnone)]
  · intro k hk hleast
    rw [s.keyWait_of_leastKey x (s.leastKey_of_keyDown hk hleast)]
    exact ⟨_, rfl, rfl, rfl, (s.setKw none).toNat_readV_captureKey x (s.lt_of_keyDown hk),
      (s.setKw none).keyDown_captureKey x k, s.onlyWrites_setKw_captureKey x k⟩

/-- Dropping the latch and executing FX0A is `StepKeyWait`: the least key does not depend on the latch. -/
theorem exec_ldVxKey_setKw_none {s : State} {x : Nibble} (hkw : s.kw = some x) :
    exec (.ldVxKey x) (s.setKw none) = .next (s.keyWait x) := by
  cases hkey : s.leastKey with
  | some k => rw [s.keyWait_of_leastKey x hkey, exec_ldVxKey_of_leastKey (s.setKw none) x hkey]
  | none =>
    rw [s.keyWait_of_no_key x hkey, exec_ldVxKey_of_no_key (s.setKw none) x hkey]
    simp only [State.setKw, ← hkw]

/-- Settles O14: at its FX0A the state without the latch fetches that FX0A, whose execution is `StepKeyWait`. -/
theorem pendingWaitIsRefetch : Obligations.PendingWaitIsRefetch := by
  intro s x herr hkw hwaits
  obtain ⟨hfetch, hdecode⟩ := hwaits x hkw
  refine ⟨_, step_of_kw herr hkw, ?_⟩
  have hready : Ready (s.setKw none) := ⟨herr, rfl⟩
  exact (step_of_decodeWord_eq_some hready (s.fetchOk_iff.mp hfetch) hdecode).trans (exec_ldVxKey_setKw_none hkw)

end Sys2Proof.Machine
end

section
/-! The rules over all instructions: what an instruction does in its execute phase, said once, and the frames, errors
and invariants that follow from it. -/

namespace Sys2Proof.Machine

/-! ## What an instruction that raises nothing does -/

/-- The values an instruction gives pc (R64): where it was, the next instruction or the one after, a jump target of at
most 0xFFF + 0xFF, or the popped call site plus 2. -/
inductive PcUpdate (s : State) : Word → Prop
  | stay : PcUpdate s s.pc
  | advance : PcUpdate s (s.pc + 2)
  | skip : PcUpdate s (s.pc + 4)
  | jump {w : Word} (h : w.toNat ≤ 0x10FE) : PcUpdate s w
  | ret (h : s.sp.val ≠ 0) : PcUpdate s (s.top + 2)

/-- From `s` to `t` the instruction `i` wrote what its rule names, and memory stays canonical. -/
structure Completes (i : Instr) (s t : State) : Prop where
  frame : OnlyWrites (writeSet i) s t
  regs : ∀ r, r ∉ destRegs i → t.readV r = s.readV r
  pc : PcUpdate s t.pc
  mem_wf : Memory.wf s.cfg.font s.mem → Memory.wf t.cfg.font t.mem

theorem toNat_zextAddr_le (nnn : Addr) : (zextAddr nnn).toNat ≤ 0x10FE := by
  rw [toNat_zextAddr]
  omega

/-- A register within the block of FX65 is one of its destinations (R99). -/
theorem mem_destRegs_loadRegs {x r : Nibble} (h : r.toNat ≤ x.toNat) : r ∈ destRegs (.loadRegs x) := by
  simp only [destRegs, List.mem_map, List.mem_range]
  exact ⟨r.toNat, by omega, by simp⟩

namespace Completes

variable {i : Instr} {s : State}

/-- An instruction that writes no register leaves each one. -/
theorem of_no_register {t : State} (hv : .v ∉ writeSet i) (frame : OnlyWrites (writeSet i) s t)
    (pc : PcUpdate s t.pc) (mem_wf : Memory.wf s.cfg.font s.mem → Memory.wf t.cfg.font t.mem) : Completes i s t :=
  ⟨frame, fun r _ => frame .v hv r, pc, mem_wf⟩

theorem writeV_advance {x : Nibble} {b : Byte} (hw : writeSet i = [.v, .pc]) (hd : x ∈ destRegs i) :
    Completes i s (s.writeV x b).advance := by
  refine ⟨hw ▸ s.onlyWrites_writeV_advance x b, ?_, .advance, id⟩
  intro r hr
  have hrx : r ≠ x := (ne_of_mem_of_not_mem hd hr).symm
  rw [State.advance_readV, State.readV_writeV, if_neg hrx]

theorem writeRF_advance {x : Nibble} {r f : Byte} (hw : writeSet i = [.v, .pc]) (hx : x ∈ destRegs i)
    (hf : 0xF ∈ destRegs i) : Completes i s (s.writeRF x r f).advance := by
  refine ⟨hw ▸ onlyWrites_writeRF_advance s x r f, ?_, ?_, ?_⟩
  · intro q hq
    have hqx : q ≠ x := (ne_of_mem_of_not_mem hx hq).symm
    have hqf : q ≠ 0xF := (ne_of_mem_of_not_mem hf hq).symm
    rw [State.advance_readV, State.readV_writeRF, if_neg fun e => hqx e.1, if_neg hqf]
  · rw [State.writeRF_v_only]
    exact .advance
  · rw [State.writeRF_v_only]
    exact id

theorem skipIf {c : Bool} (hw : writeSet i = [.pc]) : Completes i s (s.skipIf c) := by
  refine of_no_register (by simp [hw]) (hw ▸ s.onlyWrites_skipIf c) ?_ id
  cases c with
  | true => exact .skip
  | false => exact .advance

theorem jump {w : Word} (hw : writeSet i = [.pc]) (h : w.toNat ≤ 0x10FE) : Completes i s (s.setPc w) :=
  of_no_register (by simp [hw]) (hw ▸ s.onlyWrites_setPc w) (.jump h) id

theorem setI_advance {w : Word} (hw : writeSet i = [.i, .pc]) : Completes i s (s.setI w).advance :=
  of_no_register (by simp [hw]) (hw ▸ s.onlyWrites_setI_advance w) .advance id

theorem consumeKey_skipIf {k : Nat} {c : Bool} (hw : writeSet i = [.key, .pc]) :
    Completes i s ((s.consumeKey k).skipIf c) := by
  refine of_no_register (by simp [hw]) (hw ▸ s.onlyWrites_consumeKey_skipIf k c) ?_ id
  cases c with
  | true => exact .skip
  | false => exact .advance

/-- A block write that is in memory keeps the canonical form. -/
theorem writeBytes_advance {a : Nat} {bs : List Byte} (hw : writeSet i = [.mem, .pc]) (ha : a + bs.length ≤ memSize) :
    Completes i s (s.writeBytes a bs).advance := by
  refine of_no_register (by simp [hw]) (hw ▸ onlyWrites_writeBytes_advance s a bs) ?_ (s.writeBytes_wf a bs ha)
  rw [State.writeBytes_advance_pc]
  exact .advance

theorem setDt_advance {x : Nibble} {b : Byte} : Completes (.ldDtVx x) s (s.setDt b).advance :=
  of_no_register (by simp [writeSet]) (s.onlyWrites_setDt_advance b) .advance id

theorem setSt_advance {x : Nibble} {b : Byte} : Completes (.ldStVx x) s (s.setSt b).advance :=
  of_no_register (by simp [writeSet]) (s.onlyWrites_setSt_advance b) .advance id

theorem cls : Completes .cls s ((s.setPix Frame.blank).setDirty true).advance :=
  of_no_register (by decide) (s.onlyWrites_setPix_setDirty_advance _ _) .advance id

theorem ret (h : s.sp.val ≠ 0) : Completes .ret s (s.pop.setPc (s.top + 2)) :=
  of_no_register (by decide) (s.onlyWrites_pop_setPc _) (.ret h) id

theorem call {nnn : Addr} (h : s.sp.val < 16) : Completes (.call nnn) s ((s.push h s.pc).setPc (zextAddr nnn)) :=
  of_no_register (by simp [writeSet]) (s.onlyWrites_push_setPc h _ _) (.jump (toNat_zextAddr_le nnn)) id

theorem rnd {x : Nibble} {nn r : Byte} : Completes (.rnd x nn) s (s.rndWith r x nn) := by
  refine ⟨s.onlyWrites_rndWith r x nn, ?_, .advance, id⟩
  intro q hq
  rw [State.readV_rndWith, if_neg fun e => hq (by simp [destRegs, e])]

theorem afterDraw {x y n : Nibble} : Completes (.drw x y n) s (s.afterDraw x y n) := by
  refine ⟨s.onlyWrites_afterDraw x y n, ?_, .advance, id⟩
  intro q hq
  rw [State.afterDraw_readV, if_neg fun e => hq (by simp [destRegs, e])]

theorem captureKey {x : Nibble} {k : Nat} : Completes (.ldVxKey x) s (s.captureKey x k) := by
  refine ⟨(s.onlyWrites_captureKey x k).mono (by simp [writeSet]), ?_, .advance, id⟩
  intro q hq
  rw [State.captureKey, State.advance_readV, State.consumeKey_readV, State.readV_writeV,
    if_neg fun e => hq (by simp [destRegs, e])]

theorem setKw {x : Nibble} : Completes (.ldVxKey x) s (s.setKw (some x)) :=
  ⟨(s.onlyWrites_setKw _).mono (by simp [writeSet]), fun _ _ => rfl, .stay, id⟩

theorem writeRegs_advance {x : Nibble} :
    Completes (.loadRegs x) s (s.writeRegs 0 (s.readBytes s.i.toNat (x.toNat + 1))).advance := by
  refine ⟨onlyWrites_writeRegs_advance s _ _, ?_, ?_, ?_⟩
  · intro q hq
    rw [State.advance_readV, State.readV_writeRegs_readBytes, if_neg fun h => hq (mem_destRegs_loadRegs h)]
  · rw [State.writeRegs_advance_pc]
    exact .advance
  · rw [State.writeRegs_v_only]
    exact id

end Completes

/-! ## What an instruction does -/

/-- An instruction raises the error of its row of the error table and writes the latch, or its row has none there and
it completes. -/
def RaisesOrCompletes (i : Instr) (s : State) : Prop :=
  (∃ f, execError i s = some f ∧ exec i s = .next (s.latch f)) ∨
    (execError i s = none ∧ ∃ t, exec i s = .next t ∧ Completes i s t)

section
variable {i : Instr} {s : State}

/-- The instructions the error table does not name. -/
theorem RaisesOrCompletes.of_no_row (hrow : execError i s = none) {t : State} (hexec : exec i s = .next t)
    (ht : Completes i s t) : RaisesOrCompletes i s := .inr ⟨hrow, t, hexec, ht⟩

/-- The instructions behind the memory guard: its bound is the one of the error table (R39, R113). -/
theorem RaisesOrCompletes.of_ifInMemory {n : Nat} {t : State} (hrow : execError i s = spanError n s)
    (hexec : exec i s = ifInMemory n s t) (ht : (n = 0 ∨ s.i.toNat + n ≤ 4096) → Completes i s t) :
    RaisesOrCompletes i s := by
  rw [RaisesOrCompletes, hrow, hexec, spanError]
  obtain ⟨hin, hnext⟩ | ⟨⟨hn, hout⟩, hraise⟩ := ifInMemory_cases s n t
  · exact .inr ⟨if_neg (by omega), t, hnext, ht hin⟩
  · exact .inl ⟨_, if_pos (by omega), hraise⟩

/-- The instructions that check a key index (R105, R113). -/
theorem RaisesOrCompletes.of_key_index {x : Nibble} {t : State} (hrow : execError i s = keyError x s)
    (hraise : 16 ≤ (s.readV x).toNat → exec i s = .next (s.latch (s.keyFault x)))
    (hexec : (s.readV x).toNat < 16 → exec i s = .next t) (ht : Completes i s t) : RaisesOrCompletes i s := by
  rw [RaisesOrCompletes, hrow, keyError]
  by_cases h : 16 ≤ (s.readV x).toNat
  · exact .inl ⟨_, if_pos h, hraise h⟩
  · exact .inr ⟨if_neg h, t, hexec (by omega), ht⟩

end

theorem raisesOrCompletes_ret (s : State) : RaisesOrCompletes .ret s := by
  by_cases h : s.sp.val = 0
  · exact .inl ⟨_, if_pos h, exec_ret_of_eq_zero s h⟩
  · exact .inr ⟨if_neg h, _, exec_ret_of_ne_zero s h, .ret h⟩

theorem raisesOrCompletes_call (nnn : Addr) (s : State) : RaisesOrCompletes (.call nnn) s := by
  by_cases h : s.sp.val < 16
  · exact .inr ⟨if_neg (by omega), _, exec_call_of_lt s nnn h, .call h⟩
  · exact .inl ⟨_, if_pos (by omega), exec_call_of_not_lt s nnn h⟩

theorem raisesOrCompletes_ldVxKey (x : Nibble) (s : State) : RaisesOrCompletes (.ldVxKey x) s := by
  cases h : s.leastKey with
  | some k => exact .of_no_row rfl (exec_ldVxKey_of_leastKey s x h) .captureKey
  | none => exact .of_no_row rfl (exec_ldVxKey_of_no_key s x h) .setKw

/-- What the execute phase of each instruction does; the frames, errors and invariants below follow from it. -/
theorem raisesOrCompletes (i : Instr) (s : State) : RaisesOrCompletes i s := by
  cases i with
  | cls => exact .of_no_row rfl (exec_cls s) .cls
  | ret => exact raisesOrCompletes_ret s
  | jp nnn => exact .of_no_row rfl (exec_jp s nnn) (.jump rfl (toNat_zextAddr_le nnn))
  | call nnn => exact raisesOrCompletes_call nnn s
  | seImm x nn => exact .of_no_row rfl (exec_seImm s x nn) (.skipIf rfl)
  | sneImm x nn => exact .of_no_row rfl (exec_sneImm s x nn) (.skipIf rfl)
  | seReg x y => exact .of_no_row rfl (exec_seReg s x y) (.skipIf rfl)
  | ldImm x nn => exact .of_no_row rfl (exec_ldImm s x nn) (.writeV_advance rfl (by simp [destRegs]))
  | addImm x nn => exact .of_no_row rfl (exec_addImm s x nn) (.writeV_advance rfl (by simp [destRegs]))
  | ldReg x y => exact .of_no_row rfl (exec_ldReg s x y) (.writeV_advance rfl (by simp [destRegs]))
  | orReg x y => exact .of_no_row rfl (exec_orReg s x y) (.writeV_advance rfl (by simp [destRegs]))
  | andReg x y => exact .of_no_row rfl (exec_andReg s x y) (.writeV_advance rfl (by simp [destRegs]))
  | xorReg x y => exact .of_no_row rfl (exec_xorReg s x y) (.writeV_advance rfl (by simp [destRegs]))
  | addReg x y =>
    exact .of_no_row rfl (exec_addReg s x y) (.writeRF_advance rfl (by simp [destRegs]) (by simp [destRegs]))
  | subReg x y =>
    exact .of_no_row rfl (exec_subReg s x y) (.writeRF_advance rfl (by simp [destRegs]) (by simp [destRegs]))
  | shrReg x y =>
    exact .of_no_row rfl (exec_shrReg s x y) (.writeRF_advance rfl (by simp [destRegs]) (by simp [destRegs]))
  | subnReg x y =>
    exact .of_no_row rfl (exec_subnReg s x y) (.writeRF_advance rfl (by simp [destRegs]) (by simp [destRegs]))
  | shlReg x y =>
    exact .of_no_row rfl (exec_shlReg s x y) (.writeRF_advance rfl (by simp [destRegs]) (by simp [destRegs]))
  | sneReg x y => exact .of_no_row rfl (exec_sneReg s x y) (.skipIf rfl)
  | ldI nnn => exact .of_no_row rfl (exec_ldI s nnn) (.setI_advance rfl)
  | jpV0 nnn =>
    exact .of_no_row rfl (exec_jpV0 s nnn) (.jump rfl (by rw [toNat_zextByte_add_zextAddr]; omega))
  | rnd x nn => exact .of_no_row rfl (exec_rnd s x nn) .rnd
  | drw x y n => exact .of_ifInMemory rfl (exec_drw s x y n) fun _ => .afterDraw
  | skp x => exact .of_key_index rfl (exec_skp_of_ge s x) (exec_skp_of_lt s x) (.consumeKey_skipIf rfl)
  | sknp x => exact .of_key_index rfl (exec_sknp_of_ge s x) (exec_sknp_of_lt s x) (.consumeKey_skipIf rfl)
  | ldVxDt x => exact .of_no_row rfl (exec_ldVxDt s x) (.writeV_advance rfl (by simp [destRegs]))
  | ldVxKey x => exact raisesOrCompletes_ldVxKey x s
  | ldDtVx x => exact .of_no_row rfl (exec_ldDtVx s x) .setDt_advance
  | ldStVx x => exact .of_no_row rfl (exec_ldStVx s x) .setSt_advance
  | addI x => exact .of_no_row rfl (exec_addI s x) (.setI_advance rfl)
  | ldFont x => exact .of_no_row rfl (exec_ldFont s x) (.setI_advance rfl)
  | ldBcd x =>
    refine .of_ifInMemory rfl (exec_ldBcd s x) fun hin => .writeBytes_advance rfl ?_
    simp only [bcdDigits, List.length_cons, List.length_nil, memSize]
    omega
  | storeRegs x =>
    refine .of_ifInMemory rfl (exec_storeRegs s x) fun hin => .writeBytes_advance rfl ?_
    rw [State.length_regBlock, memSize]
    omega
  | loadRegs x => exact .of_ifInMemory rfl (exec_loadRegs s x) fun _ => .writeRegs_advance

/-- The inversion of a given execute phase. -/
theorem exec_cases {i : Instr} {s t : State} (h : exec i s = .next t) :
    (∃ f, execError i s = some f ∧ t = s.latch f) ∨ (execError i s = none ∧ Completes i s t) := by
  obtain ⟨f, hf, hraise⟩ | ⟨hnone, t', hexec, ht⟩ := raisesOrCompletes i s
  · exact .inl ⟨f, hf, Host.Outcome.next.inj (h.symm.trans hraise)⟩
  · obtain rfl : t = t' := Host.Outcome.next.inj (h.symm.trans hexec)
    exact .inr ⟨hnone, ht⟩

/-! ## Components that few instructions name -/

section
variable (i : Instr)

theorem err_not_mem_writeSet : .err ∉ writeSet i := by cases i <;> simp [writeSet]

theorem cfg_not_mem_writeSet : .cfg ∉ writeSet i := by cases i <;> simp [writeSet]

variable {i}

theorem eq_ldDtVx_of_dt_mem_writeSet (h : .dt ∈ writeSet i) : ∃ x, i = .ldDtVx x := by cases i <;> simp_all [writeSet]

theorem eq_ldStVx_of_st_mem_writeSet (h : .st ∈ writeSet i) : ∃ x, i = .ldStVx x := by cases i <;> simp_all [writeSet]

theorem eq_ldVxKey_of_kw_mem_writeSet (h : .kw ∈ writeSet i) : ∃ x, i = .ldVxKey x := by cases i <;> simp_all [writeSet]

/-- The stack is written only together with its depth. -/
theorem sp_mem_writeSet_of_stack_mem (h : .stack ∈ writeSet i) : .sp ∈ writeSet i := by cases i <;> simp_all [writeSet]

theorem eq_of_sp_mem_writeSet (h : .sp ∈ writeSet i) : i = .ret ∨ ∃ nnn, i = .call nnn := by
  cases i <;> simp_all [writeSet]

end

/-- A component other than the latch that an instruction's rule does not name is as before, also when it raises. -/
theorem exec_agree_of_not_mem_writeSet {i : Instr} {s t : State} (h : exec i s = .next t) {c : Component}
    (herr : c ≠ .err) (hc : c ∉ writeSet i) : c.agree s t := by
  obtain ⟨f, -, rfl⟩ | ⟨-, ht⟩ := exec_cases h
  · exact onlyWrites_latch s f c (by simpa using herr)
  · exact ht.frame c hc

/-- Settles O17: an instruction completes within its frame, or it raises. -/
theorem instructionsWriteOnlyTheirComponents : Obligations.InstructionsWriteOnlyTheirComponents := by
  intro i s t h
  obtain ⟨f, hf, rfl⟩ | ⟨-, ht⟩ := exec_cases h
  · exact .inr ⟨by simp [hf], onlyWrites_latch s f⟩
  · exact .inl ht.frame

/-- Settles O18: an instruction that completes keeps the registers its rule does not name, one that raises keeps all. -/
theorem otherRegistersAreUnchanged : Obligations.OtherRegistersAreUnchanged := by
  intro i s t h r hr
  obtain ⟨f, -, rfl⟩ | ⟨-, ht⟩ := exec_cases h
  · exact s.latch_readV f r
  · exact ht.regs r hr

/-- Settles O19: the two cases of the execute phase are those of the error table, and no frame names the latch. -/
theorem instructionsRaiseByTheErrorTable : Obligations.InstructionsRaiseByTheErrorTable := by
  intro i s
  obtain ⟨g, hg, hraise⟩ | ⟨hnone, t, hexec, ht⟩ := raisesOrCompletes i s
  · refine ⟨fun f hf => ?_, fun hnone => absurd (hg.symm.trans hnone) (Option.some_ne_none g)⟩
    obtain rfl : g = f := Option.some.inj (hg.symm.trans hf)
    exact hraise
  · refine ⟨fun f hf => absurd (hf.symm.trans hnone) (Option.some_ne_none f), fun _ => ⟨t, hexec, ?_⟩⟩
    exact ht.frame .err (err_not_mem_writeSet i)

/-- Settles O20: CXNN counts its draw, and no other frame names the counter. -/
theorem onlyRndDraws : Obligations.OnlyRndDraws := by
  intro i s t h
  cases i with
  | rnd x nn =>
    obtain rfl : s.rndWith (Config.freeRand s.draws) x nn = t := Host.Outcome.next.inj h
    rfl
  | _ => exact exec_agree_of_not_mem_writeSet (c := .draws) h (by decide) (by simp [writeSet])

end Sys2Proof.Machine
end

section
/-! The statement that no instruction reads Dirty or ST. -/

namespace Sys2Proof.Machine

/-- The state with other values of Dirty and ST. -/
def State.withUnread (s : State) (d : Bool) (b : Byte) : State := { s with dirty := d, st := b }

section
variable (s : State) (d : Bool) (b : Byte)

theorem State.writeRF_withUnread (x : Nibble) (r f : Byte) :
    (s.withUnread d b).writeRF x r f = (s.writeRF x r f).withUnread d b := by
  unfold State.writeRF
  cases h : s.cfg.vfOrder <;> simp only [State.withUnread, h] <;> rfl

theorem State.writeBytes_withUnread (a : Nat) (bs : List Byte) :
    (s.withUnread d b).writeBytes a bs = (s.writeBytes a bs).withUnread d b := by
  induction bs generalizing s a with
  | nil => rfl
  | cons v bs ih => exact ih (s.writeByte a v) (a + 1)

theorem State.writeRegs_withUnread (k : Nat) (bs : List Byte) :
    (s.withUnread d b).writeRegs k bs = (s.writeRegs k bs).withUnread d b := by
  induction bs generalizing s k with
  | nil => rfl
  | cons v bs ih => exact ih (s.writeV (BitVec.ofNat 4 k) v) (k + 1)

end

/-- With other values of Dirty and ST the instruction reaches the same state but for those two. -/
def IgnoresUnread (i : Instr) : Prop :=
  ∀ (s t : State) (d : Bool) (b : Byte), exec i s = .next t →
    ∃ d' b', exec i (s.withUnread d b) = .next (t.withUnread d' b')

namespace IgnoresUnread

variable {i : Instr}

/-- An instruction that always reaches the state `f` makes. -/
theorem of_eq {f : State → State} (hexec : ∀ s, exec i s = .next (f s))
    (hf : ∀ s d b, ∃ d' b', f (s.withUnread d b) = (f s).withUnread d' b') : IgnoresUnread i := by
  intro s t d b h
  obtain rfl : f s = t := Host.Outcome.next.inj ((hexec s).symm.trans h)
  obtain ⟨d', b', hf⟩ := hf s d b
  exact ⟨d', b', (hexec _).trans (congrArg _ hf)⟩

/-- An instruction that raises `fault` under `guard` and otherwise reaches the state `f` makes. -/
theorem of_guard {guard : State → Prop} {fault : State → Fault} {f : State → State}
    (hraise : ∀ s, guard s → exec i s = .next (s.latch (fault s))) (hexec : ∀ s, ¬ guard s → exec i s = .next (f s))
    (hguard : ∀ s d b, guard (s.withUnread d b) ↔ guard s) (hfault : ∀ s d b, fault (s.withUnread d b) = fault s)
    (hf : ∀ s d b, ∃ d' b', f (s.withUnread d b) = (f s).withUnread d' b') : IgnoresUnread i := by
  intro s t d b h
  by_cases hg : guard s
  · obtain rfl : s.latch (fault s) = t := Host.Outcome.next.inj ((hraise s hg).symm.trans h)
    refine ⟨d, b, (hraise _ ((hguard s d b).mpr hg)).trans ?_⟩
    rw [hfault]
    rfl
  · obtain rfl : f s = t := Host.Outcome.next.inj ((hexec s hg).symm.trans h)
    obtain ⟨d', b', hf⟩ := hf s d b
    exact ⟨d', b', (hexec _ (mt (hguard s d b).mp hg)).trans (congrArg _ hf)⟩

/-- An instruction behind the memory guard, which reads I and pc only. -/
theorem of_ifInMemory {n : Nat} {f : State → State} (hexec : ∀ s, exec i s = ifInMemory n s (f s))
    (hf : ∀ s d b, ∃ d' b', f (s.withUnread d b) = (f s).withUnread d' b') : IgnoresUnread i :=
  of_guard (guard := fun s => s.outOfMemory n = true) (fault := State.memoryFault)
    (fun s hg => (hexec s).trans (if_pos hg)) (fun s hg => (hexec s).trans (if_neg hg))
    (fun _ _ _ => Iff.rfl) (fun _ _ _ => rfl) hf

theorem writeRF_advance {x : Nibble} {r f : State → Byte}
    (hexec : ∀ s, exec i s = .next (s.writeRF x (r s) (f s)).advance) (hr : ∀ s d b, r (s.withUnread d b) = r s)
    (hf : ∀ s d b, f (s.withUnread d b) = f s) : IgnoresUnread i := by
  refine of_eq hexec fun s d b => ⟨d, b, ?_⟩
  rw [hr, hf, State.writeRF_withUnread]
  rfl

theorem key_skip {x : Nibble} {c : Bool → Bool}
    (hraise : ∀ s : State, 16 ≤ (s.readV x).toNat → exec i s = .next (s.latch (s.keyFault x)))
    (hexec : ∀ s : State, (s.readV x).toNat < 16 →
      exec i s = .next ((s.consumeKey (s.readV x).toNat).skipIf (c (s.keyDown (s.readV x).toNat)))) :
    IgnoresUnread i :=
  of_guard (guard := fun s => 16 ≤ (s.readV x).toNat) (fault := fun s => s.keyFault x) hraise
    (fun s hg => hexec s (Nat.not_le.mp hg)) (fun _ _ _ => Iff.rfl) (fun _ _ _ => rfl) (fun _ d b => ⟨d, b, rfl⟩)

theorem ret : IgnoresUnread .ret :=
  of_guard (guard := fun s => s.sp.val = 0) exec_ret_of_eq_zero exec_ret_of_ne_zero
    (fun _ _ _ => Iff.rfl) (fun _ _ _ => rfl) (fun _ d b => ⟨d, b, rfl⟩)

theorem call (nnn : Addr) : IgnoresUnread (.call nnn) := by
  intro s t d b h
  by_cases hsp : s.sp.val < 16
  · obtain rfl := Host.Outcome.next.inj ((exec_call_of_lt s nnn hsp).symm.trans h)
    exact ⟨d, b, exec_call_of_lt (s.withUnread d b) nnn hsp⟩
  · obtain rfl := Host.Outcome.next.inj ((exec_call_of_not_lt s nnn hsp).symm.trans h)
    exact ⟨d, b, exec_call_of_not_lt (s.withUnread d b) nnn hsp⟩

theorem ldVxKey (x : Nibble) : IgnoresUnread (.ldVxKey x) := by
  intro s t d b h
  cases hkey : s.leastKey with
  | some k =>
    obtain rfl := Host.Outcome.next.inj ((exec_ldVxKey_of_leastKey s x hkey).symm.trans h)
    exact ⟨d, b, exec_ldVxKey_of_leastKey (s.withUnread d b) x hkey⟩
  | none =>
    obtain rfl := Host.Outcome.next.inj ((exec_ldVxKey_of_no_key s x hkey).symm.trans h)
    exact ⟨d, b, exec_ldVxKey_of_no_key (s.withUnread d b) x hkey⟩

end IgnoresUnread

theorem ignoresUnread (i : Instr) : IgnoresUnread i := by
  cases i with
  | ret => exact .ret
  | call nnn => exact .call nnn
  | addReg x y => exact .writeRF_advance (fun s => exec_addReg s x y) (fun _ _ _ => rfl) (fun _ _ _ => rfl)
  | subReg x y => exact .writeRF_advance (fun s => exec_subReg s x y) (fun _ _ _ => rfl) (fun _ _ _ => rfl)
  | shrReg x y => exact .writeRF_advance (fun s => exec_shrReg s x y) (fun _ _ _ => rfl) (fun _ _ _ => rfl)
  | subnReg x y => exact .writeRF_advance (fun s => exec_subnReg s x y) (fun _ _ _ => rfl) (fun _ _ _ => rfl)
  | shlReg x y => exact .writeRF_advance (fun s => exec_shlReg s x y) (fun _ _ _ => rfl) (fun _ _ _ => rfl)
  | drw x y n => exact .of_ifInMemory (fun s => exec_drw s x y n) fun _ _ b => ⟨true, b, rfl⟩
  | skp x => exact .key_skip (c := id) (fun s => exec_skp_of_ge s x) (fun s => exec_skp_of_lt s x)
  | sknp x => exact .key_skip (c := not) (fun s => exec_sknp_of_ge s x) (fun s => exec_sknp_of_lt s x)
  | ldVxKey x => exact .ldVxKey x
  | ldBcd x =>
    exact .of_ifInMemory (fun s => exec_ldBcd s x) fun s d b =>
      ⟨d, b, congrArg State.advance (s.writeBytes_withUnread d b _ _)⟩
  | storeRegs x =>
    exact .of_ifInMemory (fun s => exec_storeRegs s x) fun s d b =>
      ⟨d, b, congrArg State.advance (s.writeBytes_withUnread d b _ _)⟩
  | loadRegs x =>
    exact .of_ifInMemory (fun s => exec_loadRegs s x) fun s d b =>
      ⟨d, b, congrArg State.advance (s.writeRegs_withUnread d b _ _)⟩
  | cls => exact .of_eq exec_cls fun _ _ b => ⟨true, b, rfl⟩
  | ldStVx x => exact .of_eq (fun s => exec_ldStVx s x) fun s d _ => ⟨d, s.readV x, rfl⟩
  | _ => exact .of_eq (fun _ => rfl) fun _ d b => ⟨d, b, rfl⟩

/-- Settles O22: every instruction ignores the two, and writes them without reading them. -/
theorem dirtyAndSoundTimerAreNotRead : Obligations.DirtyAndSoundTimerAreNotRead :=
  fun i s t d b => ignoresUnread i s t d b

end Sys2Proof.Machine
end

section
/-! The statements of 40_cycle.md and 60_exceptions.md about the step: its cases, what it leaves as it was, and the
pending wait. -/

namespace Sys2Proof.Machine

/-! ## What a step can do -/

/-- No instruction raises LoadTooLarge (R113, R117). -/
theorem execError_ne_loadTooLarge {i : Instr} {s : State} {f : Fault} (h : execError i s = some f) (n : Nat) :
    f ≠ .loadTooLarge n := by
  rintro rfl
  cases i <;> simp [execError, spanError, keyError] at h

/-- From `s` to `t` in one step: nothing changed, a pending wait ended, an error of fetch, decode or the error table was
latched, or the fetched instruction completed (R61, R118). -/
inductive StepTo (s t : State) : Prop
  | idle (ht : t = s)
  | captured (x : Nibble) (k : Nat) (hkw : s.kw = some x) (ht : t = (s.setKw none).captureKey x k)
  | raised (f : Fault) (herr : s.err = none) (hkw : s.kw = none) (hf : ∀ n, f ≠ .loadTooLarge n) (ht : t = s.latch f)
  | completed (i : Instr) (hkw : s.kw = none) (hpc : s.pc.toNat ≤ 0xFFE) (hdecode : decodeWord s.fetchWord = some i)
      (hexec : exec i s = .next t) (ht : Completes i s t)

theorem stepTo_keyWait {s : State} {x : Nibble} (hkw : s.kw = some x) : StepTo s (s.keyWait x) := by
  obtain ⟨-, hwait⟩ | ⟨k, -, hwait⟩ := s.keyWait_cases x
  · exact .idle hwait
  · exact .captured x k hkw hwait

theorem exists_stepTo (s : State) : ∃ t, step s = .next t ∧ StepTo s t := by
  obtain ⟨f, -, hstep⟩ | ⟨x, -, hkw, hstep⟩ | ⟨herr, hkw, -, hstep⟩ | ⟨herr, hkw, -, -, hstep⟩ |
    ⟨i, herr, hkw, hpc, hdecode, hstep⟩ := step_cases s
  · exact ⟨s, hstep, .idle rfl⟩
  · exact ⟨_, hstep, stepTo_keyWait hkw⟩
  · exact ⟨_, hstep, .raised s.fetchFault herr hkw (by simp [State.fetchFault]) rfl⟩
  · exact ⟨_, hstep, .raised s.decodeFault herr hkw (by simp [State.decodeFault]) rfl⟩
  · obtain ⟨f, hf, hraise⟩ | ⟨-, t, hexec, ht⟩ := raisesOrCompletes i s
    · exact ⟨_, hstep.trans hraise, .raised f herr hkw (execError_ne_loadTooLarge hf) rfl⟩
    · exact ⟨t, hstep.trans hexec, .completed i hkw hpc hdecode hexec ht⟩

theorem stepTo_of_step {s t : State} (h : step s = .next t) : StepTo s t := by
  obtain ⟨t', hstep, ht⟩ := exists_stepTo s
  obtain rfl : t = t' := Host.Outcome.next.inj (h.symm.trans hstep)
  exact ht

/-- The Step transaction returns what the latch of the reached state holds (R115, R116). -/
theorem stepTransaction_of_step {s t : State} (h : step s = .next t) : stepTransaction s = (t, t.err) := by
  simp only [stepTransaction, h]

/-- A halted engine stays as it is (R116). -/
theorem step_of_err {s : State} {f : Fault} (h : s.err = some f) : step s = .next s := by
  simp only [step, h]

/-- Settles O12: each case of a step is a next state. -/
theorem everyStepCompletes : Obligations.EveryStepCompletes := by
  intro s
  obtain ⟨t, hstep, -⟩ := exists_stepTo s
  exact ⟨t, hstep⟩

/-- Settles O10: a halted step answers its own state, whose latch the transaction returns. -/
theorem haltedStepReturnsTheLatchedError : Obligations.HaltedStepReturnsTheLatchedError := by
  intro s f hf
  have hstep := step_of_err hf
  exact ⟨hstep, (stepTransaction_of_step hstep).trans (by rw [hf])⟩

/-- Settles O11: the latch changes only in the case that raises, which writes nothing else. -/
theorem errorsArePrecise : Obligations.ErrorsArePrecise := by
  intro s t hstep hchanged
  cases stepTo_of_step hstep with
  | idle ht => exact absurd (congrArg State.err ht) hchanged
  | captured x k _ ht =>
    subst ht
    exact absurd rfl hchanged
  | raised f herr _ _ ht =>
    subst ht
    exact ⟨herr, rfl, stepTransaction_of_step hstep⟩
  | completed i _ _ _ _ ht => exact absurd (ht.frame .err (err_not_mem_writeSet i)) hchanged

/-- Settles O8: the decoded bytes are the fetched word, which the step executes. -/
theorem stepRunsTheDecodedInstruction : Obligations.StepRunsTheDecodedInstruction := by
  intro s i hready hpc hdecode
  refine step_of_decodeWord_eq_some hready hpc ?_
  rw [decode_cons_cons] at hdecode
  rw [State.fetchWord]
  cases hd : decodeWord (joinBytes (s.readByte s.pc.toNat) (s.readByte (s.pc.toNat + 1))) with
  | none => simp [hd] at hdecode
  | some j =>
    simp only [hd, Option.elim_some, Except.ok.injEq, Prod.mk.injEq, and_true] at hdecode
    rw [hdecode]

/-- Settles O16: the jump writes to pc the value it has. -/
theorem jumpToSelfIsAFixedPoint : Obligations.JumpToSelfIsAFixedPoint := by
  intro s nnn hready hnnn hpc hdecode
  have hself : zextAddr nnn = s.pc := BitVec.eq_of_toNat_eq ((toNat_zextAddr nnn).trans hnnn.symm)
  rw [step_of_decodeWord_eq_some hready hpc hdecode, exec_jp, hself]
  rfl

/-- Settles O21: in every case of a step but a completed instruction both timers are kept, and of the frames only those
of FX15 and FX18 name one. -/
theorem stepNeverTicks : Obligations.StepNeverTicks := by
  intro s t hstep
  cases stepTo_of_step hstep with
  | idle ht =>
    subst ht
    exact ⟨absurd rfl, absurd rfl⟩
  | captured x k _ ht =>
    subst ht
    exact ⟨absurd rfl, absurd rfl⟩
  | raised f _ _ _ ht =>
    subst ht
    exact ⟨absurd rfl, absurd rfl⟩
  | completed i _ _ hdecode hexec ht =>
    constructor
    · intro hdt
      obtain ⟨x, rfl⟩ := eq_ldDtVx_of_dt_mem_writeSet (not_imp_comm.mp (ht.frame .dt) hdt)
      obtain rfl := Host.Outcome.next.inj ((exec_ldDtVx s x).symm.trans hexec)
      exact ⟨x, hdecode, rfl⟩
    · intro hst
      obtain ⟨x, rfl⟩ := eq_ldStVx_of_st_mem_writeSet (not_imp_comm.mp (ht.frame .st) hst)
      obtain rfl := Host.Outcome.next.inj ((exec_ldStVx s x).symm.trans hexec)
      exact ⟨x, hdecode, rfl⟩

/-! ## The pending wait -/

/-- From a state that does not wait, an instruction that leaves a wait is an FX0A that changed the latch only (R108). -/
theorem exec_eq_setKw_of_kw_ne_none {i : Instr} {s t : State} (hkw : s.kw = none) (hexec : exec i s = .next t)
    (ht : t.kw ≠ none) : ∃ x, i = .ldVxKey x ∧ t = s.setKw (some x) := by
  have hmem : .kw ∈ writeSet i := by
    by_contra hmem
    exact ht ((exec_agree_of_not_mem_writeSet (c := .kw) hexec (by decide) hmem).trans hkw)
  obtain ⟨x, rfl⟩ := eq_ldVxKey_of_kw_mem_writeSet hmem
  cases hkey : s.leastKey with
  | some k =>
    obtain rfl := Host.Outcome.next.inj ((exec_ldVxKey_of_leastKey s x hkey).symm.trans hexec)
    exact absurd hkw ht
  | none =>
    obtain rfl := Host.Outcome.next.inj ((exec_ldVxKey_of_no_key s x hkey).symm.trans hexec)
    exact ⟨x, rfl, rfl⟩

theorem waitsAtKeyInstr_of_kw_eq_none {s : State} (h : s.kw = none) : WaitsAtKeyInstr s := by
  intro x hx
  simp [h] at hx

/-- Settles O15: a step leaves a wait only where it was, or by an FX0A it has just fetched; the other transactions write
neither memory, pc nor the latch. -/
theorem pendingWaitStaysAtItsInstruction : Obligations.PendingWaitStaysAtItsInstruction := by
  constructor
  · intro s t hwaits hstep
    cases stepTo_of_step hstep with
    | idle ht => exact ht ▸ hwaits
    | captured x k _ ht =>
      subst ht
      exact waitsAtKeyInstr_of_kw_eq_none rfl
    | raised f _ hkw _ ht =>
      subst ht
      exact waitsAtKeyInstr_of_kw_eq_none hkw
    | completed i hidle hpc hdecode hexec _ =>
      by_cases hkw : t.kw = none
      · exact waitsAtKeyInstr_of_kw_eq_none hkw
      · obtain ⟨x, rfl, rfl⟩ := exec_eq_setKw_of_kw_ne_none hidle hexec hkw
        intro y hy
        obtain rfl : x = y := Option.some.inj hy
        exact ⟨s.fetchOk_iff.mpr hpc, hdecode⟩
  · exact fun s hwaits => ⟨hwaits, fun _ => hwaits, hwaits⟩

end Sys2Proof.Machine
end

section
/-! The statements of 10_state.md, 44_display.md, 60_exceptions.md and 70_reset_and_hazards.md about single host
transactions and the state at creation. -/

namespace Sys2Proof.Machine

/-! ## Tick, ReadFrame and Load -/

/-- A timer counts down to zero and stays there (R122). -/
theorem toNat_countDown (b : Byte) : (if b = 0 then 0 else b - 1).toNat = b.toNat - 1 := by
  by_cases h : b = 0
  · simp [h]
  · have hpos : b.toNat ≠ 0 := fun e => h (BitVec.eq_of_toNat_eq e)
    have hone : (1 : Byte).toNat = 1 := rfl
    rw [if_neg h, toNat_sub_byte, hone]
    omega

/-- The frame of a tick: each other component is read back by its own laws. -/
theorem onlyWrites_tick (s : State) : OnlyWrites [.dt, .st] s (tick s).1 := by
  intro c hc
  cases c with
  | dt | st => simp at hc
  | _ => simp [Component.agree, tick]

/-- Settles O48: each timer counts down, and the edge is the tick at ST = 1. -/
theorem tickCountsDownAndReportsTheEdge : Obligations.TickCountsDownAndReportsTheEdge := by
  intro s
  refine ⟨toNat_countDown s.dt, toNat_countDown s.st, ?_, onlyWrites_tick s⟩
  exact beq_iff_eq.trans (BitVec.toNat_inj (y := 1)).symm

/-- The frame of a write to Dirty: each other component is read back by its own laws. -/
theorem State.onlyWrites_setDirty (s : State) (b : Bool) : OnlyWrites [.dirty] s (s.setDirty b) := by
  intro c hc
  cases c with
  | dirty => exact absurd (List.mem_singleton_self _) hc
  | _ => simp [Component.agree]

/-- Settles O50: ReadFrame is a write to Dirty and returns the display, which it does not write. -/
theorem readFrameClearsDirtyOnly : Obligations.ReadFrameClearsDirtyOnly :=
  fun s => ⟨fun _ _ => rfl, rfl, s.onlyWrites_setDirty false, rfl⟩

/-- The frame of a block write. -/
theorem State.onlyWrites_writeBytes (s : State) (a : Nat) (bs : List Byte) : OnlyWrites [.mem] s (s.writeBytes a bs) := by
  rw [State.writeBytes_mem_only]
  intro c hc
  cases c with
  | mem => exact absurd (List.mem_singleton_self _) hc
  | v | key => exact fun _ => rfl
  | pix => exact fun _ _ => rfl
  | _ => rfl

theorem load_of_le {image : List Byte} (h : image.length ≤ 3584) (s : State) :
    load image s = (s.writeBytes progBase image, none) := if_pos ((imageWf_iff image).mpr h)

theorem load_of_gt {image : List Byte} (h : 3584 < image.length) (s : State) :
    load image s = (s, some (.loadTooLarge image.length)) :=
  if_neg (mt (imageWf_iff image).mp (Nat.not_le.mpr h))

/-- Settles O51: an image that fits is one block write at 0x200, a longer one writes nothing. -/
theorem loadCopiesTheImageOrRefuses : Obligations.LoadCopiesTheImageOrRefuses := by
  intro s image hm
  constructor
  · intro h
    rw [load_of_le h]
    refine ⟨rfl, ?_, ?_, s.onlyWrites_writeBytes _ _⟩
    · exact fun k hk => s.readByte_writeBytes_inside progBase hm hk
    · exact fun a ha => s.readByte_writeBytes_outside progBase a image ha
  · exact fun h => load_of_gt h s

/-! ## Creation (R37) -/

/-- Settles O54: nothing is listed in memory, and every other component stands in the definition. -/
theorem stateAtCreation : Obligations.StateAtCreation := by
  intro cfg
  refine ⟨fun a => rfl, ?_, rfl, rfl, ?_, rfl, rfl, rfl, Frame.at_blank, rfl, ?_, rfl, rfl⟩
  · intro x
    simp [State.readV, State.create]
  · intro k hk
    simp [State.create]
  · intro k
    simp [State.keyDown, State.create]

/-- Settles O55: the two bytes at 0x200 are zero, and the zero word selects no row. -/
theorem stepBeforeLoadRaisesUnknownOpcode : Obligations.StepBeforeLoadRaisesUnknownOpcode := by
  have hword : State.reset.fetchWord = 0x0000 := by decide
  have hready : Ready State.reset := ⟨rfl, rfl⟩
  refine (step_of_decodeWord_eq_none hready (by decide) (hword ▸ by decide)).trans ?_
  rw [State.decodeFault, hword]
  rfl

/-- Settles O56: at creation memory lists nothing, the stack is empty, pc is 0x200, and nothing waits or is latched. -/
theorem invariantAtCreation : Obligations.InvariantAtCreation := by
  intro cfg
  refine ⟨Memory.nil_wf _, ⟨(by decide : (0x200#16).toNat ≤ 0x10FE), ?_, fun hkw => absurd rfl hkw⟩, fun n => nofun⟩
  intro k _ hk
  exact absurd hk (Nat.not_lt_zero k)

end Sys2Proof.Machine
end

section
/-! The invariant of the machine, and what every run of host transactions keeps. -/

namespace Sys2Proof.Machine

/-! ## The invariant along a step (R17, R21, R65) -/

/-- Every valid stack entry is the address of a fetched call (R21). -/
def CallSites (s : State) : Prop := ∀ k (h : k < 16), k < s.sp.val → s.stack[k].toNat ≤ 0xFFE

theorem CallSites.congr {s t : State} (h : CallSites s) (hstack : t.stack = s.stack) (hsp : t.sp = s.sp) :
    CallSites t := by
  intro k hk hlt
  simp only [hstack]
  exact h k hk (hsp ▸ hlt)

/-- A call pushes the address it was fetched from. -/
theorem CallSites.push {s : State} (h : CallSites s) (hpc : s.pc.toNat ≤ 0xFFE) (hsp : s.sp.val < 16) :
    CallSites (s.push hsp s.pc) := by
  intro k hk hlt
  rw [State.stack_push]
  split
  · exact hpc
  · next hne =>
    have hlt : k < s.sp.val + 1 := hlt
    exact h k hk (by omega)

theorem CallSites.pop {s : State} (h : CallSites s) : CallSites s.pop := by
  intro k hk hlt
  have hlt : k < s.sp.val - 1 := hlt
  exact h k hk (by omega)

/-- Only 00EE and 2NNN write the stack or its depth. -/
theorem CallSites.exec {i : Instr} {s t : State} (h : CallSites s) (hpc : s.pc.toNat ≤ 0xFFE)
    (hexec : exec i s = .next t) : CallSites t := by
  by_cases hmem : .sp ∈ writeSet i
  · obtain rfl | ⟨nnn, rfl⟩ := eq_of_sp_mem_writeSet hmem
    · by_cases hsp : s.sp.val = 0
      · obtain rfl := Host.Outcome.next.inj ((exec_ret_of_eq_zero s hsp).symm.trans hexec)
        exact h
      · obtain rfl := Host.Outcome.next.inj ((exec_ret_of_ne_zero s hsp).symm.trans hexec)
        exact h.pop
    · by_cases hsp : s.sp.val < 16
      · obtain rfl := Host.Outcome.next.inj ((exec_call_of_lt s nnn hsp).symm.trans hexec)
        exact h.push hpc hsp
      · obtain rfl := Host.Outcome.next.inj ((exec_call_of_not_lt s nnn hsp).symm.trans hexec)
        exact h
  · have hstack : .stack ∉ writeSet i := mt sp_mem_writeSet_of_stack_mem hmem
    exact h.congr (exec_agree_of_not_mem_writeSet hexec (by decide) hstack)
      (exec_agree_of_not_mem_writeSet hexec (by decide) hmem)

/-- The popped entry of a nonempty stack is a call site. -/
theorem CallSites.top_le {s : State} (h : CallSites s) (hsp : s.sp.val ≠ 0) : s.top.toNat ≤ 0xFFE :=
  h (s.sp.val - 1) (by omega) (by omega)

theorem toNat_add_le {w d : Word} {m n : Nat} (hw : w.toNat ≤ m) (hd : d.toNat ≤ n) : (w + d).toNat ≤ m + n := by
  rw [BitVec.toNat_add]
  omega

/-- Whatever a fetched instruction writes to pc is at most 0x10FE (R17). -/
theorem PcUpdate.le {s : State} {w : Word} (h : PcUpdate s w) (hpc : s.pc.toNat ≤ 0xFFE) (hsites : CallSites s) :
    w.toNat ≤ 0x10FE := by
  have hadd {a d : Word} (ha : a.toNat ≤ 0xFFE) (hd : d.toNat ≤ 4) : (a + d).toNat ≤ 0x10FE :=
    (toNat_add_le ha hd).trans (by decide)
  cases h with
  | stay => omega
  | advance => exact hadd hpc (by decide)
  | skip => exact hadd hpc (by decide)
  | jump h => exact h
  | ret hsp => exact hadd (hsites.top_le hsp) (by decide)

/-- A completed instruction keeps the range of pc; a wait it leaves stands at the FX0A just fetched. -/
theorem PcInv.completed {i : Instr} {s t : State} (h : PcInv s) (hkw : s.kw = none) (hpc : s.pc.toNat ≤ 0xFFE)
    (hexec : Machine.exec i s = .next t) (ht : Completes i s t) : PcInv t where
  pc_le := ht.pc.le hpc h.call_site
  call_site := CallSites.exec h.call_site hpc hexec
  wait_pc hwait := by
    obtain ⟨x, -, rfl⟩ := exec_eq_setKw_of_kw_ne_none hkw hexec hwait
    exact hpc

theorem PcInv.captured {s : State} {x : Nibble} {k : Nat} (h : PcInv s) (hkw : s.kw = some x) :
    PcInv ((s.setKw none).captureKey x k) where
  pc_le := by
    have hpc : s.pc.toNat ≤ 0xFFE := h.wait_pc (by simp [hkw])
    exact (toNat_add_le hpc (Nat.le_refl 2)).trans (by decide)
  call_site := h.call_site
  wait_pc hwait := absurd rfl hwait

/-- A change that leaves memory canonical and pc, the call stack and the key-wait latch as they were keeps the
invariant, if it latches no LoadTooLarge. -/
theorem Inv.of_kept {s t : State} (h : Inv s) (hmem : Memory.wf t.cfg.font t.mem) (hpc : t.pc = s.pc)
    (hstack : t.stack = s.stack) (hsp : t.sp = s.sp) (hkw : t.kw = s.kw)
    (hlatch : ∀ n, t.err ≠ some (.loadTooLarge n)) : Inv t where
  mem_wf := hmem
  pc_inv := ⟨hpc ▸ h.pc_inv.pc_le, CallSites.congr h.pc_inv.call_site hstack hsp, hpc ▸ hkw ▸ h.pc_inv.wait_pc⟩
  latch_kind := hlatch

/-- Settles O57: each case of a step keeps the three parts of the invariant. -/
theorem stepKeepsTheInvariant : Obligations.StepKeepsTheInvariant := by
  intro s t h hstep
  cases stepTo_of_step hstep with
  | idle ht => exact ht ▸ h
  | captured x k hkw ht =>
    subst ht
    exact ⟨h.mem_wf, h.pc_inv.captured hkw, h.latch_kind⟩
  | raised f _ _ hf ht =>
    subst ht
    exact h.of_kept h.mem_wf rfl rfl rfl rfl fun n e => hf n (Option.some.inj e)
  | completed i hkw hpc _ hexec ht =>
    refine ⟨ht.mem_wf h.mem_wf, h.pc_inv.completed hkw hpc hexec ht, ?_⟩
    have herr : t.err = s.err := ht.frame .err (err_not_mem_writeSet i)
    exact fun n => herr ▸ h.latch_kind n

/-! ## Runs of host transactions -/

/-- What every transaction keeps, every run keeps. -/
theorem runTransactions_induction {P : State → Prop} (h : ∀ t s, P s → P (transact t s).1) (ts : List Transaction)
    (s : State) (hs : P s) : P (runTransactions ts s) := by
  induction ts generalizing s with
  | nil => exact hs
  | cons t ts ih => exact ih _ (h t s hs)

theorem transact_step {s t : State} (h : step s = .next t) : (transact .step s).1 = t :=
  congrArg Prod.fst (stepTransaction_of_step h)

/-- The two cases of Load: one block write, or nothing. -/
theorem load_cases (image : List Byte) (s : State) :
    (image.length ≤ 3584 ∧ (load image s).1 = s.writeBytes progBase image) ∨ (load image s).1 = s := by
  by_cases h : image.length ≤ 3584
  · exact .inl ⟨h, congrArg Prod.fst (load_of_le h s)⟩
  · exact .inr (congrArg Prod.fst (load_of_gt (Nat.not_le.mp h) s))

/-- Load writes memory only, whatever the image is (R131). -/
theorem onlyWrites_load (image : List Byte) (s : State) : OnlyWrites [.mem] s (load image s).1 := by
  obtain ⟨-, h⟩ | h := load_cases image s
  · rw [h]
    exact s.onlyWrites_writeBytes _ _
  · rw [h]
    exact OnlyWrites.refl s _

/-- Settles O52: a step of a halted engine is idle, and no other transaction writes the latch. -/
theorem noTransactionClearsAnError : Obligations.NoTransactionClearsAnError := by
  intro ts s f hf
  refine runTransactions_induction (P := fun s => s.err = some f) ?_ ts s hf
  intro t s hs
  cases t with
  | load image => exact (onlyWrites_load image s .err (by decide)).trans hs
  | step => exact (transact_step (step_of_err hs)).symm ▸ hs
  | tick => exact hs
  | setInput k => exact hs
  | readFrame => exact hs

theorem step_cfg {s t : State} (h : step s = .next t) : t.cfg = s.cfg := by
  cases stepTo_of_step h with
  | idle ht => rw [ht]
  | captured x k _ ht => rw [ht]; rfl
  | raised f _ _ _ ht => rw [ht, State.latch_cfg]
  | completed i _ _ _ _ ht => exact ht.frame .cfg (cfg_not_mem_writeSet i)

/-- Settles O53: no frame of an instruction or of a transaction names the parameters. -/
theorem parametersNeverChange : Obligations.ParametersNeverChange := by
  intro ts s
  refine runTransactions_induction (P := fun u => u.cfg = s.cfg) ?_ ts s rfl
  intro t u hu
  cases t with
  | load image => exact (onlyWrites_load image u .cfg (by decide)).trans hu
  | step =>
    obtain ⟨v, hstep⟩ := everyStepCompletes u
    rw [transact_step hstep, step_cfg hstep, hu]
  | tick => exact hu
  | setInput k => exact hu
  | readFrame => exact hu

/-- A block write that is in memory keeps the invariant: it writes memory only. -/
theorem Inv.writeBytes {s : State} (h : Inv s) {a : Nat} {bs : List Byte} (ha : a + bs.length ≤ memSize) :
    Inv (s.writeBytes a bs) := by
  have hwf := s.writeBytes_wf a bs ha h.mem_wf
  rw [State.writeBytes_mem_only] at hwf ⊢
  exact h.of_kept hwf rfl rfl rfl rfl h.latch_kind

theorem Inv.load {s : State} (h : Inv s) (image : List Byte) : Inv (load image s).1 := by
  obtain ⟨hlen, hload⟩ | hload := load_cases image s
  · rw [hload]
    refine h.writeBytes ?_
    rw [progBase, memSize]
    omega
  · rw [hload]
    exact h

/-- Settles O58: a step keeps the invariant, a load writes inside memory, and the other transactions write no component
the invariant reads. -/
theorem runsKeepTheInvariant : Obligations.RunsKeepTheInvariant := by
  refine runTransactions_induction ?_
  intro t s h
  cases t with
  | load image => exact h.load image
  | step =>
    obtain ⟨u, hstep⟩ := everyStepCompletes s
    exact (transact_step hstep).symm ▸ stepKeepsTheInvariant s u h hstep
  | tick => exact h.of_kept h.mem_wf rfl rfl rfl rfl h.latch_kind
  | setInput k => exact h.of_kept h.mem_wf rfl rfl rfl rfl h.latch_kind
  | readFrame => exact h.of_kept h.mem_wf rfl rfl rfl rfl h.latch_kind

end Sys2Proof.Machine
end
